-- ==== Sys2Proof/Word.lean ====
section
/-!
DEFINITION. The two widths of the block (R7, R9) and the modular arithmetic of R9.
-/

namespace Sys2Proof

/-- `u8` of R9: a data register, a memory byte, an operand byte. -/
abbrev Byte := BitVec 8

/-- `u16` of R9: an address, PC, SP. -/
abbrev Word := BitVec 16

/-- R9: `(a + b) mod 2^8`. -/
abbrev add8 (a b : Byte) : Byte := a + b

/-- R9: `(a + b) mod 2^16`. -/
abbrev add16 (a b : Word) : Word := a + b

/-- R9: `(a - b) mod 2^16`. -/
abbrev sub16 (a b : Word) : Word := a - b

end Sys2Proof
end

