-- ==== Sys2Proof/Machine/Bits.lean ====
section
/-!
DEFINITION. The bit-field and byte-order helpers of R8 and R9.
-/

namespace Sys2Proof

/-- R9: `zext_16(v)`. -/
def zext16 (v : Byte) : Word := v.setWidth 16

/-- R9: `hi:lo`, the u16 `hi * 256 + lo`. -/
def mkWord (hi lo : Byte) : Word := BitVec.ofNat 16 (hi.toNat * 256 + lo.toNat)

/-- R9: `lo8(w) = w[7:0]`. -/
def lo8 (w : Word) : Byte := w.setWidth 8

/-- R9: `hi8(w) = w[15:8]`. -/
def hi8 (w : Word) : Byte := (w >>> 8).setWidth 8

/-- R8: `v[7]`. -/
def bit7 (v : Byte) : Bool := v.getLsbD 7

end Sys2Proof
end

