-- ==== Sys2Proof/Syntax.lean ====
section
/-!
DEFINITION. The instruction syntax: the operations and addressing modes of R63, and one constructor
of `Instr` per row of spec/opcode_table.json, carrying the operand fields of R61 and R62.
-/

namespace Sys2Proof

/-- The operation tags of the opcode table (R63, R85). -/
inductive Operation where
  | lda | ldx | ldy | ora | jsr
  deriving DecidableEq, Repr

/-- The nine addressing-mode tags (R101 to R109; conflict C1). -/
inductive Mode where
  | immediate | zeroPage | zeroPageX | zeroPageY | absolute | absoluteX | absoluteY
  | indexedIndirectX | indirectIndexedY
  deriving DecidableEq, Repr

/-- One constructor per row of spec/opcode_table.json. `imm` is `imm8`, `zp` is `zp8`, `addr` is
`abs16` (R61, R62). -/
inductive Instr where
  /-- LDA Immediate, 0xA9 (R121). -/
  | ldaImm (imm : Byte)
  /-- LDA Zero Page, 0xA5 (R122). -/
  | ldaZp (zp : Byte)
  /-- LDA Zero Page,X, 0xB5 (R123). -/
  | ldaZpX (zp : Byte)
  /-- LDA Absolute, 0xAD (R124). -/
  | ldaAbs (addr : Word)
  /-- LDA Absolute,X, 0xBD (R125). -/
  | ldaAbsX (addr : Word)
  /-- LDA Absolute,Y, 0xB9 (R126). -/
  | ldaAbsY (addr : Word)
  /-- LDA Indexed Indirect (X), 0xA1 (R127). -/
  | ldaIndX (zp : Byte)
  /-- LDA Indirect Indexed (Y), 0xB1 (R128). -/
  | ldaIndY (zp : Byte)
  /-- LDX Immediate, 0xA2 (R129). -/
  | ldxImm (imm : Byte)
  /-- LDX Zero Page, 0xA6 (R130). -/
  | ldxZp (zp : Byte)
  /-- LDX Zero Page,Y, 0xB6 (R131). -/
  | ldxZpY (zp : Byte)
  /-- LDX Absolute, 0xAE (R132). -/
  | ldxAbs (addr : Word)
  /-- LDX Absolute,Y, 0xBE (R133). -/
  | ldxAbsY (addr : Word)
  /-- LDY Immediate, 0xA0 (R134). -/
  | ldyImm (imm : Byte)
  /-- LDY Zero Page, 0xA4 (R135). -/
  | ldyZp (zp : Byte)
  /-- LDY Zero Page,X, 0xB4 (R136). -/
  | ldyZpX (zp : Byte)
  /-- LDY Absolute, 0xAC (R137). -/
  | ldyAbs (addr : Word)
  /-- LDY Absolute,X, 0xBC (R138). -/
  | ldyAbsX (addr : Word)
  /-- ORA Immediate, 0x09 (R140). -/
  | oraImm (imm : Byte)
  /-- JSR Absolute, 0x20 (R145). -/
  | jsrAbs (addr : Word)
  deriving DecidableEq, Repr

/-- The operation of a row (R63). -/
def Instr.operation : Instr → Operation
  | .ldaImm _ => .lda
  | .ldaZp _ => .lda
  | .ldaZpX _ => .lda
  | .ldaAbs _ => .lda
  | .ldaAbsX _ => .lda
  | .ldaAbsY _ => .lda
  | .ldaIndX _ => .lda
  | .ldaIndY _ => .lda
  | .ldxImm _ => .ldx
  | .ldxZp _ => .ldx
  | .ldxZpY _ => .ldx
  | .ldxAbs _ => .ldx
  | .ldxAbsY _ => .ldx
  | .ldyImm _ => .ldy
  | .ldyZp _ => .ldy
  | .ldyZpX _ => .ldy
  | .ldyAbs _ => .ldy
  | .ldyAbsX _ => .ldy
  | .oraImm _ => .ora
  | .jsrAbs _ => .jsr

/-- The addressing mode of a row (R63). -/
def Instr.mode : Instr → Mode
  | .ldaImm _ => .immediate
  | .ldaZp _ => .zeroPage
  | .ldaZpX _ => .zeroPageX
  | .ldaAbs _ => .absolute
  | .ldaAbsX _ => .absoluteX
  | .ldaAbsY _ => .absoluteY
  | .ldaIndX _ => .indexedIndirectX
  | .ldaIndY _ => .indirectIndexedY
  | .ldxImm _ => .immediate
  | .ldxZp _ => .zeroPage
  | .ldxZpY _ => .zeroPageY
  | .ldxAbs _ => .absolute
  | .ldxAbsY _ => .absoluteY
  | .ldyImm _ => .immediate
  | .ldyZp _ => .zeroPage
  | .ldyZpX _ => .zeroPageX
  | .ldyAbs _ => .absolute
  | .ldyAbsX _ => .absoluteX
  | .oraImm _ => .immediate
  | .jsrAbs _ => .absolute

/-- The operand field of a row as an unsigned number (R62). -/
def Instr.operandNat : Instr → Nat
  | .ldaImm imm => imm.toNat
  | .ldaZp zp => zp.toNat
  | .ldaZpX zp => zp.toNat
  | .ldaAbs addr => addr.toNat
  | .ldaAbsX addr => addr.toNat
  | .ldaAbsY addr => addr.toNat
  | .ldaIndX zp => zp.toNat
  | .ldaIndY zp => zp.toNat
  | .ldxImm imm => imm.toNat
  | .ldxZp zp => zp.toNat
  | .ldxZpY zp => zp.toNat
  | .ldxAbs addr => addr.toNat
  | .ldxAbsY addr => addr.toNat
  | .ldyImm imm => imm.toNat
  | .ldyZp zp => zp.toNat
  | .ldyZpX zp => zp.toNat
  | .ldyAbs addr => addr.toNat
  | .ldyAbsX addr => addr.toNat
  | .oraImm imm => imm.toNat
  | .jsrAbs addr => addr.toNat

/-- The number of operand bytes of a format (R61). -/
def Mode.operandBytes : Mode → Nat
  | .immediate => 1
  | .zeroPage => 1
  | .zeroPageX => 1
  | .zeroPageY => 1
  | .absolute => 2
  | .absoluteX => 2
  | .absoluteY => 2
  | .indexedIndirectX => 1
  | .indirectIndexedY => 1

/-- The length of an instruction in bytes: the opcode byte and the operand bytes (R60, R61). -/
def Instr.length (i : Instr) : Nat := 1 + i.mode.operandBytes

end Sys2Proof
end

