-- ==== Sys2Proof/Decode.lean ====
section
/-!
DEFINITION. The decoder (R60 to R65), total on any bytes and rejecting by name; the encoder,
written from the same tables; and the reading of an opcode-table word.
-/

namespace Sys2Proof

/-- Why bytes are no instruction. -/
inductive DecodeReject where
  /-- R64, R65: the opcode byte is none of the twenty. -/
  | unsupportedOpcode (op : Byte)
  /-- The byte list ends before the instruction does; the engine never meets this, since it always
  has three bytes (R40, R41). -/
  | truncated
  deriving DecidableEq, Repr

/-- What the decoder reads: an instruction and the bytes after it, or a rejection. -/
inductive Decoded where
  | instr (i : Instr) (rest : List Byte)
  | rejected (r : DecodeReject)
  deriving DecidableEq, Repr

/-- The operand field that follows an opcode byte (R61). -/
inductive OperandField where
  | byte (mk : Byte → Instr)
  | word (mk : Word → Instr)

/-- R63: the opcode table. The byte values are the standard 6502 ones the spec adopts by decision
D1, PRESUMED, log entry 1. -/
def opcodeTable : List (Byte × OperandField) :=
  [(0xA9, .byte .ldaImm), (0xA5, .byte .ldaZp), (0xB5, .byte .ldaZpX), (0xAD, .word .ldaAbs),
   (0xBD, .word .ldaAbsX), (0xB9, .word .ldaAbsY), (0xA1, .byte .ldaIndX), (0xB1, .byte .ldaIndY)]
  ++ [(0xA2, .byte .ldxImm), (0xA6, .byte .ldxZp), (0xB6, .byte .ldxZpY), (0xAE, .word .ldxAbs),
      (0xBE, .word .ldxAbsY)]
  ++ [(0xA0, .byte .ldyImm), (0xA4, .byte .ldyZp), (0xB4, .byte .ldyZpX), (0xAC, .word .ldyAbs),
      (0xBC, .word .ldyAbsX)]
  ++ [(0x09, .byte .oraImm), (0x20, .word .jsrAbs)]

/-- R85: the entry of an opcode byte, or none for "unsupported". -/
def opcodeEntry (op : Byte) : Option OperandField := opcodeTable.lookup op

/-- R62, R64: the operand bytes after the opcode; `abs16 = byte2 : byte1`. -/
def decodeOperand : OperandField → List Byte → Decoded
  | .byte mk, b :: rest => .instr (mk b) rest
  | .word mk, lo :: hi :: rest => .instr (mk (mkWord hi lo)) rest
  | _, _ => .rejected .truncated

/-- R64: decoding is total; the opcode byte alone decides the entry. -/
def decode : List Byte → Decoded
  | [] => .rejected .truncated
  | op :: rest =>
    match opcodeEntry op with
    | some field => decodeOperand field rest
    | none => .rejected (.unsupportedOpcode op)

/-- R61, R62: an instruction whose operand is one byte. -/
def encodeByte (op operand : Byte) : List Byte := [op, operand]

/-- R61, R62: an instruction whose operand is `abs16`, low byte first. -/
def encodeWord (op : Byte) (operand : Word) : List Byte := [op, lo8 operand, hi8 operand]

/-- R61, R63: the bytes of an instruction in address order. -/
def encode : Instr → List Byte
  | .ldaImm imm => encodeByte 0xA9 imm
  | .ldaZp zp => encodeByte 0xA5 zp
  | .ldaZpX zp => encodeByte 0xB5 zp
  | .ldaAbs addr => encodeWord 0xAD addr
  | .ldaAbsX addr => encodeWord 0xBD addr
  | .ldaAbsY addr => encodeWord 0xB9 addr
  | .ldaIndX zp => encodeByte 0xA1 zp
  | .ldaIndY zp => encodeByte 0xB1 zp
  | .ldxImm imm => encodeByte 0xA2 imm
  | .ldxZp zp => encodeByte 0xA6 zp
  | .ldxZpY zp => encodeByte 0xB6 zp
  | .ldxAbs addr => encodeWord 0xAE addr
  | .ldxAbsY addr => encodeWord 0xBE addr
  | .ldyImm imm => encodeByte 0xA0 imm
  | .ldyZp zp => encodeByte 0xA4 zp
  | .ldyZpX zp => encodeByte 0xB4 zp
  | .ldyAbs addr => encodeWord 0xAC addr
  | .ldyAbsX addr => encodeWord 0xBC addr
  | .oraImm imm => encodeByte 0x09 imm
  | .jsrAbs addr => encodeWord 0x20 addr

/-- The three bytes (the longest instruction) of an opcode-table word of `nbits` bits, first byte
in bits 7..0; every bit above `nbits` is 0. -/
def tableWordBytes (nbits w : Nat) : List Byte :=
  let v := w % 2 ^ nbits
  [BitVec.ofNat 8 v, BitVec.ofNat 8 (v / 256), BitVec.ofNat 8 (v / 65536)]

/-- The instruction the decoder reads from an opcode-table word. -/
def decodeTableWord (nbits w : Nat) : Option Instr :=
  match decode (tableWordBytes nbits w) with
  | .instr i _ => some i
  | .rejected _ => none

end Sys2Proof
end

