-- ==== Sys2Proof/Config.lean ====
section
/-!
DEFINITION. What the source itself fixes for every machine (R7, R36). The values that rest on a
decision of the spec (JSR's cycles, its stack step and address) stand in Machine/Params.lean. The
spec leaves no instruction an undefined result, so there is no free value.
-/

namespace Sys2Proof

/-- R7, R40: the number of bytes of the one address space. -/
def Config.memorySize : Nat := 65536

/-- R36, R180: every memory byte is 0x00 after Reset; hence what an unlisted address reads as. -/
def Config.resetByte : Byte := 0x00

/-- R36, R181: PC after Reset, the address of the first opcode. -/
def Config.resetPC : Word := 0xFFFC

/-- R36: SP after Reset. -/
def Config.resetSP : Word := 0x00FF

end Sys2Proof
end

