-- ==== Sys2Proof/Machine/State.lean ====
section
/-!
DEFINITION. The machine's state (10_state.md), its reset value (R36), and the reasons a step can
stop.
-/

namespace Sys2Proof.Machine

/-- The 65536 bytes of R40 as the list of those that differ from `Config.resetByte`, in the
canonical form `Memory.wf` of Ops.lean (log entry 14). -/
abbrev Memory := List Host.Cell

/-- R10: the data registers a load can name. -/
inductive Reg where
  | a | x | y
  deriving DecidableEq, Repr

/-- R14: the result of Execute. -/
inductive Result where
  /-- Normal completion with the cycles consumed. -/
  | ok (consumed : Nat)
  /-- Error completion: the offending opcode byte, its address and the cycles consumed. -/
  | unsupported (op : Byte) (pc : Word) (consumed : Nat)
  deriving DecidableEq, Repr

/-- An Execute call in progress, between two of its instructions: its budget (R80) and the cycle
counter `remaining` (R34, R83). Both are unbounded (decision D7, log entry 8). -/
structure Call where
  budget : Nat
  remaining : Int
  deriving DecidableEq, Repr

/-- Everything the spec gives the machine. -/
structure State where
  /-- Accumulator A (R21). -/
  a : Byte
  /-- Index register X (R22). -/
  x : Byte
  /-- Index register Y (R23). -/
  y : Byte
  /-- Program counter (R25). -/
  pc : Word
  /-- Stack pointer (R24). -/
  sp : Word
  /-- Carry flag (R31). -/
  c : Bool
  /-- Zero flag (R29). -/
  z : Bool
  /-- Interrupt-disable flag, storage only (R31). -/
  i : Bool
  /-- Decimal flag, storage only (R31). -/
  d : Bool
  /-- Break flag, storage only (R31). -/
  b : Bool
  /-- Overflow flag, storage only (R31). -/
  v : Bool
  /-- Negative flag (R30). -/
  n : Bool
  /-- Memory (R40). -/
  mem : Memory
  /-- Fault latch: the unsupported opcode and its address (R34, R162). -/
  latch : Option (Byte × Word)
  /-- The Execute call in progress; none while the engine is idle (R33, R34; log entry 9). -/
  call : Option Call
  /-- What the last Execute returned to its caller (R14). The model's own field (log entry 11). -/
  result : Option Result
  /-- Whether a Reset has been issued (R183; log entry 12). -/
  wasReset : Bool
  deriving DecidableEq, Repr

/-- Why the machine stops. EMPTY: the spec gives the block no condition that stops it without a
stated effect. Its one exceptional condition, unsupported opcode, is a next state with the latch
set and the error result returned (R160, R161; log entry 17). -/
inductive Fault where
  deriving DecidableEq, Repr

/-- Why a step or a command has no meaning. -/
inductive Refusal where
  /-- An instruction without a meaning, raised in an arm of Dispatch.lean only; no arm raises it.
  Safe. -/
  | notModelled (mnemonic : String)
  /-- R183: an Execute, a step or a host read before the first Reset. Raised by the engine step and
  the host commands. Safe: the spec asks a model to refuse it (log entry 12). -/
  | beforeFirstReset
  /-- R13, R35: a command or host access while an Execute call is in progress. Raised by the host
  commands, never by the engine step. Safe (log entry 13). -/
  | callInProgress
  deriving DecidableEq, Repr

/-- R36, R180: the machine right after Reset. -/
def State.reset : State where
  a := 0x00
  x := 0x00
  y := 0x00
  pc := Config.resetPC
  sp := Config.resetSP
  c := false
  z := false
  i := false
  d := false
  b := false
  v := false
  n := false
  mem := []
  latch := none
  call := none
  result := none
  wasReset := true

end Sys2Proof.Machine
end

