-- ==== Sys2Proof/Machine/Ops.lean ====
section
/-!
DEFINITION. The named operations over memory, registers and the engine's own state, and the one
exceptional condition (R161).
-/

namespace Sys2Proof.Machine

/-- The byte at an address; an unlisted one reads `Config.resetByte` (R36, R42). -/
def Memory.read : Memory → Nat → Byte
  | [], _ => Config.resetByte
  | (k, w) :: rest, addr => if k = addr then w else Memory.read rest addr

/-- Stores a byte (R42), keeping the canonical form: an entry equal to `Config.resetByte` is not
listed. -/
def Memory.write : Memory → Nat → Byte → Memory
  | [], addr, val => if val = Config.resetByte then [] else [(addr, val)]
  | (k, w) :: rest, addr, val =>
    if addr < k then
      if val = Config.resetByte then (k, w) :: rest else (addr, val) :: (k, w) :: rest
    else if addr = k then
      if val = Config.resetByte then rest else (addr, val) :: rest
    else (k, w) :: Memory.write rest addr val

/-- Canonical form from address `lo` on: strictly rising addresses inside the address space, no
entry equal to what an unlisted address reads as. -/
def Memory.wfFrom : Nat → Memory → Bool
  | _, [] => true
  | lo, (k, w) :: rest =>
    decide (lo ≤ k) && decide (k < Config.memorySize) && decide (w ≠ Config.resetByte)
      && Memory.wfFrom (k + 1) rest

/-- The canonical form of memory (log entry 14). -/
def Memory.wf (m : Memory) : Bool := Memory.wfFrom 0 m

/-- R42: `MemRead(addr, 1)`. -/
def State.readByte (s : State) (addr : Word) : Byte := s.mem.read addr.toNat

/-- R42: `MemWrite(addr, 1, val)`. -/
def State.writeByte (s : State) (addr : Word) (val : Byte) : State :=
  { s with mem := s.mem.write addr.toNat val }

/-- R43: `MemRead(addr, 2)`, little-endian; at 0xFFFF the high byte comes from 0x0000. -/
def State.readWord (s : State) (addr : Word) : Word :=
  mkWord (s.readByte (add16 addr 1)) (s.readByte addr)

/-- R44: `MemWrite(addr, 2, val)`, little-endian; at 0xFFFF the high byte goes to 0x0000. -/
def State.writeWord (s : State) (addr : Word) (val : Word) : State :=
  (s.writeByte addr (lo8 val)).writeByte (add16 addr 1) (hi8 val)

/-- R108, R109: the word at a zero-page pointer. The high byte of a pointer at 0xFF comes from
0x0100 (decision D13, log entry 6). -/
def State.readPointer (s : State) (p : Byte) : Word := s.readWord (zext16 p)

/-- The three bytes at PC, the longest instruction (R60; log entry 15). -/
def State.fetchBytes (s : State) : List Byte :=
  [s.readByte s.pc, s.readByte (add16 s.pc 1), s.readByte (add16 s.pc 2)]

/-- Writes bytes at consecutive addresses modulo 2^16 (R41). -/
def State.writeBytes (s : State) (addr : Word) : List Byte → State
  | [] => s
  | val :: rest => (s.writeByte addr val).writeBytes (add16 addr 1) rest

/-- R10: `x[r]`. -/
def State.reg (s : State) : Reg → Byte
  | .a => s.a
  | .x => s.x
  | .y => s.y

/-- R10: `x[r] <- val`. No register is hardwired (R20). -/
def State.setReg (s : State) (r : Reg) (val : Byte) : State :=
  { s with
    a := if r = .a then val else s.a
    x := if r = .x then val else s.x
    y := if r = .y then val else s.y }

/-- R12: `PC <- target`. -/
def State.setPc (s : State) (target : Word) : State := { s with pc := target }

/-- R24: `SP <- val`. -/
def State.setSp (s : State) (val : Word) : State := { s with sp := val }

/-- R25: PC moves past `len` fetched bytes, modulo 2^16. -/
def State.advancePc (s : State) (len : Nat) : State :=
  s.setPc (add16 s.pc (BitVec.ofNat 16 len))

/-- R12, R87: `consume(cycles)` on a call in progress. -/
def Call.consume (k : Call) (cycles : Nat) : Call :=
  { k with remaining := k.remaining - (cycles : Int) }

/-- R12, R87: `consume(cycles)`; the counter exists only during a call (R34). -/
def State.consume (s : State) (cycles : Nat) : State :=
  { s with call := s.call.map fun k => k.consume cycles }

/-- R88: `budget - remaining`. -/
def Call.consumed (k : Call) : Nat := ((k.budget : Int) - k.remaining).toNat

/-- R83: a call starts with `remaining` at its budget. -/
def State.beginCall (s : State) (budget : Nat) : State :=
  { s with call := some { budget := budget, remaining := (budget : Int) } }

/-- R14: the call in progress ends with a result, and the engine is idle again (R33). -/
def State.endCall (s : State) (r : Result) : State :=
  { s with call := none, result := some r }

/-- R34: sets the fault latch. -/
def State.setLatch (s : State) (op : Byte) (opPc : Word) : State :=
  { s with latch := some (op, opPc) }

/-- R161: the unsupported-opcode condition, the block's only exception, in call `k`. The fetch of
the opcode has advanced PC by one and consumed one cycle; the latch records the opcode and its
address; the call returns the error result. Nothing is saved and no vector is taken (R166), and
there is no return from it: recovery is by Reset alone (R167). -/
def State.takeUnsupported (s : State) (k : Call) : State :=
  let op := s.readByte s.pc
  let opPc := s.pc
  ((s.advancePc 1).setLatch op opPc).endCall
    (.unsupported op opPc (k.consume 1).consumed)

/-- R88: the normal end of call `k`. -/
def State.returnOk (s : State) (k : Call) : State := s.endCall (.ok k.consumed)

end Sys2Proof.Machine
end

