-- ==== Sys2Proof/Machine/Params.lean ====
section
/-!
DEFINITION. The parameters of the block that the spec fixes by a decision of its own or by the cycle
table (R7, R111; 93_implementation_defined.md U6 to U8).
-/

namespace Sys2Proof.Machine

/-- R111: a mode's cycles, the opcode fetch included and the page-cross cycle not. -/
def modeCycles : Mode → Nat
  | .immediate => 2
  | .zeroPage => 3
  | .zeroPageX => 4
  | .zeroPageY => 4
  | .absolute => 4
  | .absoluteX => 4
  | .absoluteY => 4
  | .indexedIndirectX => 6
  | .indirectIndexedY => 5

/-- U6, decision D3: JSR's cycles, PRESUMED, log entry 3. -/
def jsrCycles : Nat := 6

/-- U8, conflict C2: how far JSR moves SP, DESIGN CHOICE of the spec, log entry 5. -/
def jsrSpStep : Word := 1

/-- U7, decision D4: the address JSR pushes to, DESIGN CHOICE of the spec, log entry 4. -/
def stackAddr (sp : Word) : Word := sp

end Sys2Proof.Machine
end

