-- ==== Sys2Proof/Machine/Control.lean ====
section
/-!
DEFINITION. The control-transfer instruction (44_control.md).
-/

namespace Sys2Proof.Machine

/-- R145: the return word JSR pushes: PC after the three bytes are fetched, minus one. -/
def State.jsrReturn (s : State) : Word := sub16 (add16 s.pc 3) 1

/-- R145: JSR, from the state with PC at the opcode. The target was read before the push (case d);
the push goes to the pre-call SP, SP moves by one, PC becomes the target, and JSR ends normally
(decisions D3, D4, D22, conflict C2; log entries 3, 4, 5, 18). -/
def State.jsr (s : State) (target : Word) : State :=
  (((s.writeWord (stackAddr s.sp) s.jsrReturn).setSp (add16 s.sp jsrSpStep)).setPc target).consume
    jsrCycles

/-- R145: JSR Absolute. -/
def execJsrAbs (addr : Word) (s : State) : Host.Outcome State Fault Refusal :=
  .next (s.jsr addr)

end Sys2Proof.Machine
end

