-- ==== Sys2Proof/Machine/Flags.lean ====
section
/-!
DEFINITION. The flag computations: the Z and N update of R29, R30 and R120. No instruction writes
C, I, D, B or V (R31).
-/

namespace Sys2Proof.Machine

/-- R29: Z is 1 iff the written value is 0x00. -/
def zeroFlag (val : Byte) : Bool := decide (val = 0x00)

/-- R30: N is bit 7 of the written value. -/
def negativeFlag (val : Byte) : Bool := bit7 val

/-- R120: the status update after a register load or a logical operation. -/
def State.setZN (s : State) (val : Byte) : State :=
  { s with z := zeroFlag val, n := negativeFlag val }

end Sys2Proof.Machine
end

