-- ==== Sys2Proof/Machine/Operands.lean ====
section
/-!
DEFINITION. The addressing-mode resolver (41_addressing_modes.md): effective addresses, operand
values, the page-cross rule and the cycles of each mode.
-/

namespace Sys2Proof.Machine

/-- An addressing mode with its operand field (R61, R62). -/
inductive Operand where
  | imm (val : Byte)
  | zp (z : Byte)
  | zpX (z : Byte)
  | zpY (z : Byte)
  | abs (addr : Word)
  | absX (base : Word)
  | absY (base : Word)
  | indX (z : Byte)
  | indY (z : Byte)
  deriving DecidableEq, Repr

/-- The mode tag of an operand. -/
def Operand.mode : Operand → Mode
  | .imm _ => .immediate
  | .zp _ => .zeroPage
  | .zpX _ => .zeroPageX
  | .zpY _ => .zeroPageY
  | .abs _ => .absolute
  | .absX _ => .absoluteX
  | .absY _ => .absoluteY
  | .indX _ => .indexedIndirectX
  | .indY _ => .indirectIndexedY

/-- R110: adding the index to the low byte of the pre-index base carries. -/
def pageCross (base : Word) (index : Byte) : Bool :=
  decide (0xFF < (lo8 base).toNat + index.toNat)

/-- R103, R104, R108: a zero-page address indexed in 8 bits; it never leaves page 0. -/
def zeroPageIndexed (z index : Byte) : Byte := add8 z index

/-- R106, R107, R109: a base indexed in 16 bits. -/
def baseIndexed (base : Word) (index : Byte) : Word := add16 base (zext16 index)

/-- R100: the operand value: the instruction byte for Immediate (R101), else the byte at the mode's
effective address (R102 to R109). -/
def Operand.value (s : State) : Operand → Byte
  | .imm val => val
  | .zp z => s.readByte (zext16 z)
  | .zpX z => s.readByte (zext16 (zeroPageIndexed z s.x))
  | .zpY z => s.readByte (zext16 (zeroPageIndexed z s.y))
  | .abs addr => s.readByte addr
  | .absX base => s.readByte (baseIndexed base s.x)
  | .absY base => s.readByte (baseIndexed base s.y)
  | .indX z => s.readByte (s.readPointer (zeroPageIndexed z s.x))
  | .indY z => s.readByte (baseIndexed (s.readPointer z) s.y)

/-- R110: whether this access pays the page-cross cycle. -/
def Operand.crosses (s : State) : Operand → Bool
  | .imm _ => false
  | .zp _ => false
  | .zpX _ => false
  | .zpY _ => false
  | .abs _ => false
  | .absX base => pageCross base s.x
  | .absY base => pageCross base s.y
  | .indX _ => false
  | .indY z => pageCross (s.readPointer z) s.y

/-- R100, R111: the mode's cycles with `extra`, the opcode fetch included. -/
def Operand.cycles (s : State) (o : Operand) : Nat :=
  modeCycles o.mode + (if o.crosses s then 1 else 0)

/-- R61: the whole instruction's length in bytes. -/
def Operand.length (o : Operand) : Nat := 1 + o.mode.operandBytes

end Sys2Proof.Machine
end

