-- ==== Sys2Proof/Machine/Loads.lean ====
section
/-!
DEFINITION. The load instructions (42_loads.md): the shared operation of R120 and one meaning per
opcode.
-/

namespace Sys2Proof.Machine

/-- R120: `Load(r, m)`, from the state with PC at the opcode. The opcode fetch (R84) is part of it:
PC moves by the whole length and the whole cycle count is consumed (R87; log entry 15). -/
def State.load (s : State) (r : Reg) (o : Operand) : State :=
  (((s.setReg r (o.value s)).setZN (o.value s)).advancePc o.length).consume (o.cycles s)

/-- R121: LDA Immediate. -/
def execLdaImm (imm : Byte) (s : State) : Host.Outcome State Fault Refusal :=
  .next (s.load .a (.imm imm))

/-- R122: LDA Zero Page. -/
def execLdaZp (zp : Byte) (s : State) : Host.Outcome State Fault Refusal :=
  .next (s.load .a (.zp zp))

/-- R123: LDA Zero Page,X. -/
def execLdaZpX (zp : Byte) (s : State) : Host.Outcome State Fault Refusal :=
  .next (s.load .a (.zpX zp))

/-- R124: LDA Absolute. -/
def execLdaAbs (addr : Word) (s : State) : Host.Outcome State Fault Refusal :=
  .next (s.load .a (.abs addr))

/-- R125: LDA Absolute,X. -/
def execLdaAbsX (addr : Word) (s : State) : Host.Outcome State Fault Refusal :=
  .next (s.load .a (.absX addr))

/-- R126: LDA Absolute,Y. -/
def execLdaAbsY (addr : Word) (s : State) : Host.Outcome State Fault Refusal :=
  .next (s.load .a (.absY addr))

/-- R127: LDA Indexed Indirect (X). -/
def execLdaIndX (zp : Byte) (s : State) : Host.Outcome State Fault Refusal :=
  .next (s.load .a (.indX zp))

/-- R128: LDA Indirect Indexed (Y). -/
def execLdaIndY (zp : Byte) (s : State) : Host.Outcome State Fault Refusal :=
  .next (s.load .a (.indY zp))

/-- R129: LDX Immediate. -/
def execLdxImm (imm : Byte) (s : State) : Host.Outcome State Fault Refusal :=
  .next (s.load .x (.imm imm))

/-- R130: LDX Zero Page. -/
def execLdxZp (zp : Byte) (s : State) : Host.Outcome State Fault Refusal :=
  .next (s.load .x (.zp zp))

/-- R131: LDX Zero Page,Y. -/
def execLdxZpY (zp : Byte) (s : State) : Host.Outcome State Fault Refusal :=
  .next (s.load .x (.zpY zp))

/-- R132: LDX Absolute. -/
def execLdxAbs (addr : Word) (s : State) : Host.Outcome State Fault Refusal :=
  .next (s.load .x (.abs addr))

/-- R133: LDX Absolute,Y. -/
def execLdxAbsY (addr : Word) (s : State) : Host.Outcome State Fault Refusal :=
  .next (s.load .x (.absY addr))

/-- R134: LDY Immediate. -/
def execLdyImm (imm : Byte) (s : State) : Host.Outcome State Fault Refusal :=
  .next (s.load .y (.imm imm))

/-- R135: LDY Zero Page. -/
def execLdyZp (zp : Byte) (s : State) : Host.Outcome State Fault Refusal :=
  .next (s.load .y (.zp zp))

/-- R136: LDY Zero Page,X. -/
def execLdyZpX (zp : Byte) (s : State) : Host.Outcome State Fault Refusal :=
  .next (s.load .y (.zpX zp))

/-- R137: LDY Absolute. -/
def execLdyAbs (addr : Word) (s : State) : Host.Outcome State Fault Refusal :=
  .next (s.load .y (.abs addr))

/-- R138: LDY Absolute,X. -/
def execLdyAbsX (addr : Word) (s : State) : Host.Outcome State Fault Refusal :=
  .next (s.load .y (.absX addr))

end Sys2Proof.Machine
end

