-- ==== Sys2Proof/Machine/Logical.lean ====
section
/-!
DEFINITION. The logical instruction (43_logical.md).
-/

namespace Sys2Proof.Machine

/-- R140: ORA with an operand, from the state with PC at the opcode; the opcode fetch is part of
it (log entry 15). -/
def State.orA (s : State) (o : Operand) : State :=
  let r := s.a ||| o.value s
  (((s.setReg .a r).setZN r).advancePc o.length).consume (o.cycles s)

/-- R140: ORA Immediate. -/
def execOraImm (imm : Byte) (s : State) : Host.Outcome State Fault Refusal :=
  .next (s.orA (.imm imm))

end Sys2Proof.Machine
end

