-- ==== Sys2Proof/Machine/Engine.lean ====
section
/-!
DEFINITION. The engine (40_fetch_execute.md): one turn of the budget loop, the Execute command, the
step, and how an instruction is placed where the step fetches.
-/

namespace Sys2Proof.Machine

/-- R83 to R86, R161: one turn of the loop of R80 in call `k`. While `remaining > 0` one whole
instruction runs, or an unsupported opcode ends the call; otherwise the call returns. -/
def turn (k : Call) (s : State) : Host.Outcome State Fault Refusal :=
  if 0 < k.remaining then
    match decode s.fetchBytes with
    | .instr i _ => exec i s
    | .rejected _ => .next (s.takeUnsupported k)
  else .next (s.returnOk k)

/-- R80: the loop, until the call has ended. Every instruction consumes at least one cycle, so
`budget + 1` turns are enough for a call with that budget (log entry 19). -/
def runCall : Nat → State → Host.Outcome State Fault Refusal
  | 0, s => .next s
  | fuel + 1, s =>
    match s.call with
    | none => .next s
    | some k =>
      match turn k s with
      | .next t => runCall fuel t
      | .fault r => .fault r
      | .refused r => .refused r

/-- R80 to R83: the Execute command; the result is recorded in `result`. It is refused before the
first Reset (R183) and during a call (R13). The budget-0 test comes before the latch test (R81). -/
def execute (budget : Nat) (s : State) : Host.Outcome State Fault Refusal :=
  if s.wasReset = false then .refused .beforeFirstReset
  else if s.call.isSome then .refused .callInProgress
  else if budget = 0 then .next (s.endCall (.ok 0))
  else
    match s.latch with
    | some (op, opPc) => .next (s.endCall (.unsupported op opPc 0))
    | none => runCall (budget + 1) (s.beginCall budget)

/-- One step. In a call: one turn of its loop. Idle: the host single-steps with Execute(1) (R172),
DESIGN CHOICE, log entry 10. -/
def engineStep (s : State) : Host.Outcome State Fault Refusal :=
  if s.wasReset = false then .refused .beforeFirstReset
  else
    match s.call with
    | none => execute 1 s
    | some k => turn k s

/-- A call that will run one more instruction: the one in progress if it has cycles left, else a
fresh Execute(1). -/
def liveCall : Option Call → Call
  | none => { budget := 1, remaining := 1 }
  | some k => if 0 < k.remaining then k else { budget := 1, remaining := 1 }

/-- The state with `bytes` at PC in which the very next step runs the instruction they hold: a
Reset has been issued, the latch is clear and an Execute call has cycles left (log entry 16). -/
def placeForFetch (s : State) (bytes : List Byte) : State :=
  { s.writeBytes s.pc bytes with
    latch := none
    call := some (liveCall s.call)
    wasReset := true }

end Sys2Proof.Machine
end

