-- ==== Sys2Proof/Machine/Step.lean ====
section
/-!
DEFINITION. The step, and the state in which it runs a given opcode-table word.
-/

namespace Sys2Proof.Machine

/-- One step of the machine (R80 to R86, R172). -/
def step : State → Host.Outcome State Fault Refusal := engineStep

/-- `s` with an opcode-table word where the next step fetches its instruction (log entry 16). -/
def State.withFetchWord (s : State) (nbits w : Nat) : State :=
  placeForFetch s (tableWordBytes nbits w)

end Sys2Proof.Machine
end

