-- ==== Sys2Proof/Machine/Commands.lean ====
section
/-!
DEFINITION. The host's commands (R13): Reset (R180), Execute (R80, in Engine.lean) and host access
to registers, flags and memory (R35). None is part of a step: the host issues them between steps,
while the engine is idle.
-/

namespace Sys2Proof.Machine

/-- The seven flags by name (R28). -/
inductive Flag where
  | c | z | i | d | b | v | n
  deriving DecidableEq, Repr

/-- R10: a flag's value. -/
def State.flag (s : State) : Flag → Bool
  | .c => s.c
  | .z => s.z
  | .i => s.i
  | .d => s.d
  | .b => s.b
  | .v => s.v
  | .n => s.n

/-- R10: `F <- bit`. -/
def State.setFlag (s : State) (f : Flag) (bit : Bool) : State :=
  { s with
    c := if f = .c then bit else s.c
    z := if f = .z then bit else s.z
    i := if f = .i then bit else s.i
    d := if f = .d then bit else s.d
    b := if f = .b then bit else s.b
    v := if f = .v then bit else s.v
    n := if f = .n then bit else s.n }

/-- R35: one host write. -/
inductive HostWrite where
  | reg (r : Reg) (val : Byte)
  | pc (val : Word)
  | sp (val : Word)
  | flag (f : Flag) (bit : Bool)
  | byte (addr : Word) (val : Byte)
  deriving DecidableEq, Repr

/-- R35: the effect of a host write; it never touches the latch (R162). -/
def HostWrite.apply (s : State) : HostWrite → State
  | .reg r val => s.setReg r val
  | .pc val => s.setPc val
  | .sp val => s.setSp val
  | .flag f bit => s.setFlag f bit
  | .byte addr val => s.writeByte addr val

/-- R13, R35: a command of the host. -/
inductive Command where
  | reset
  | execute (budget : Nat)
  | write (w : HostWrite)
  deriving DecidableEq, Repr

/-- R180: Reset, at any time the engine is idle, before the first Reset too. -/
def resetCommand (s : State) : Host.Outcome State Fault Refusal :=
  if s.call.isSome then .refused .callInProgress else .next State.reset

/-- R35: a host write, refused during a call. Before the first Reset it is useless but not refused
(R184; log entry 13). -/
def hostWrite (w : HostWrite) (s : State) : Host.Outcome State Fault Refusal :=
  if s.call.isSome then .refused .callInProgress else .next (w.apply s)

/-- R13: one command. -/
def command : Command → State → Host.Outcome State Fault Refusal
  | .reset, s => resetCommand s
  | .execute budget, s => execute budget s
  | .write w, s => hostWrite w s

/-- R35, R183: why the host may not read now, if so. -/
def hostReadBar (s : State) : Option Refusal :=
  if s.wasReset = false then some .beforeFirstReset
  else if s.call.isSome then some .callInProgress
  else none

/-- A host read of one item. -/
def hostRead {α : Type} (item : State → α) (s : State) : Except Refusal α :=
  match hostReadBar s with
  | some r => .error r
  | none => .ok (item s)

/-- R35: the host reads a data register. -/
def hostReadReg (r : Reg) (s : State) : Except Refusal Byte := hostRead (fun t => t.reg r) s

/-- R35: the host reads PC. -/
def hostReadPc (s : State) : Except Refusal Word := hostRead (fun t => t.pc) s

/-- R35: the host reads SP. -/
def hostReadSp (s : State) : Except Refusal Word := hostRead (fun t => t.sp) s

/-- R35: the host reads a flag. -/
def hostReadFlag (f : Flag) (s : State) : Except Refusal Bool := hostRead (fun t => t.flag f) s

/-- R35: the host reads a memory byte. -/
def hostReadByte (addr : Word) (s : State) : Except Refusal Byte :=
  hostRead (fun t => t.readByte addr) s

end Sys2Proof.Machine
end

