-- ==== Sys2Proof/WellFormed.lean ====
section
/-!
DEFINITION. Which (operation, mode, operand) triples are instructions: the mode set of each
mnemonic (R63, conflict C1) and the width of the operand field (R61, R62). The operand types of
`Instr` carry both checks, so every `Instr` is well formed; the checks bite on the raw triple a
program writer starts from.
-/

namespace Sys2Proof

/-- R63: the modes each mnemonic has. LDA has no Zero Page,Y; LDX indexes by Y only and LDY by X
only (decision D2, log entry 2); ORA is Immediate only; JSR is Absolute only. -/
def modeAllowed : Operation → Mode → Bool
  | .lda, m => decide (m ≠ .zeroPageY)
  | .ldx, m => decide (m ∈ [.immediate, .zeroPage, .zeroPageY, .absolute, .absoluteY])
  | .ldy, m => decide (m ∈ [.immediate, .zeroPage, .zeroPageX, .absolute, .absoluteX])
  | .ora, m => decide (m = .immediate)
  | .jsr, m => decide (m = .absolute)

/-- R61, R62: the operand field is a u8 in the one-byte formats and a u16 in the two-byte ones. -/
def operandFits (m : Mode) (operand : Nat) : Bool :=
  decide (operand < 256 ^ m.operandBytes)

/-- A raw (operation, mode, operand) triple is an instruction of R63. -/
def wellFormed (op : Operation) (m : Mode) (operand : Nat) : Bool :=
  modeAllowed op m && operandFits m operand

/-- The same check on an instruction of the syntax. -/
def Instr.wellFormed (i : Instr) : Bool :=
  Sys2Proof.wellFormed i.operation i.mode i.operandNat

end Sys2Proof
end

