-- ==== Sys2Proof/Safety.lean ====
section
/-!
DEFINITION. The terms claims are stated in: the invariant, what an instruction leaves alone, the
cycle table of R63 and the sequences of instructions a call runs.
-/

namespace Sys2Proof.Machine

/-- A call in progress between instructions: a budget above 0, and a counter that the last
instruction (at most 6 cycles, started with at least 1 left) may have overrun by at most 5. -/
def callOk : Option Call → Bool
  | none => true
  | some k =>
    decide (0 < k.budget) && decide (-5 ≤ k.remaining) && decide (k.remaining ≤ (k.budget : Int))

/-- The latch only ever names an unsupported opcode (R34). -/
def latchOk : Option (Byte × Word) → Bool
  | none => true
  | some (op, _) => (opcodeEntry op).isNone

/-- An error result only ever names an unsupported opcode (R160). -/
def resultOk : Option Result → Bool
  | some (.unsupported op _ _) => (opcodeEntry op).isNone
  | some (.ok _) => true
  | none => true

/-- The invariant as a check: memory in canonical form; the call, latch and result as above; no
call in progress once the latch is set (R82, R161) or before the first Reset (R183). -/
def State.inv (s : State) : Bool :=
  s.mem.wf && callOk s.call && latchOk s.latch && resultOk s.result
    && (s.call.isNone || s.latch.isNone) && (s.call.isNone || s.wasReset)

/-- The invariant every step and every host command keeps. -/
abbrev State.Inv (s : State) : Prop := s.inv = true

/-- A state in which the host may issue Execute: idle, and a Reset has been issued (R13, R183). -/
abbrev State.Ready (s : State) : Prop := s.wasReset = true ∧ s.call = none

/-- A state inside an Execute call whose counter is `k`. -/
abbrev State.InCall (s : State) (k : Call) : Prop := s.wasReset = true ∧ s.call = some k

/-- What no instruction writes: C, I, D, B, V (R31), the latch, the recorded result and whether a
Reset was issued. -/
def Untouched (s t : State) : Prop :=
  t.c = s.c ∧ t.i = s.i ∧ t.d = s.d ∧ t.b = s.b ∧ t.v = s.v ∧
  t.latch = s.latch ∧ t.result = s.result ∧ t.wasReset = s.wasReset

/-- R87: the counter of the call in progress, if any, went down by `cycles`; its budget stays. -/
def Consumed (s t : State) (cycles : Nat) : Prop :=
  t.call = s.call.map fun k => { budget := k.budget, remaining := k.remaining - (cycles : Int) }

/-- The whole effect of an instruction of `len` bytes and `cycles` cycles that writes `val` to
register `r` and the flags Z and N from it, and changes nothing else: no other register, flag or
byte of memory (R120, R140). -/
def WritesRegister (s t : State) (r : Reg) (val : Byte) (len cycles : Nat) : Prop :=
  t.reg r = val ∧ (∀ q, q ≠ r → t.reg q = s.reg q) ∧
  t.z = decide (val = 0x00) ∧ t.n = val.getLsbD 7 ∧
  t.pc = add16 s.pc (BitVec.ofNat 16 len) ∧ t.sp = s.sp ∧
  (∀ addr, t.readByte addr = s.readByte addr) ∧
  Untouched s t ∧ Consumed s t cycles

/-- The register an instruction writes; none for JSR. -/
def destination : Instr → Option Reg
  | .ldaImm _ => some .a
  | .ldaZp _ => some .a
  | .ldaZpX _ => some .a
  | .ldaAbs _ => some .a
  | .ldaAbsX _ => some .a
  | .ldaAbsY _ => some .a
  | .ldaIndX _ => some .a
  | .ldaIndY _ => some .a
  | .ldxImm _ => some .x
  | .ldxZp _ => some .x
  | .ldxZpY _ => some .x
  | .ldxAbs _ => some .x
  | .ldxAbsY _ => some .x
  | .ldyImm _ => some .y
  | .ldyZp _ => some .y
  | .ldyZpX _ => some .y
  | .ldyAbs _ => some .y
  | .ldyAbsX _ => some .y
  | .oraImm _ => some .a
  | .jsrAbs _ => none

/-- The register and the operand of a load (42_loads.md); none for ORA and JSR. -/
def loadForm : Instr → Option (Reg × Operand)
  | .ldaImm imm => some (.a, .imm imm)
  | .ldaZp zp => some (.a, .zp zp)
  | .ldaZpX zp => some (.a, .zpX zp)
  | .ldaAbs addr => some (.a, .abs addr)
  | .ldaAbsX addr => some (.a, .absX addr)
  | .ldaAbsY addr => some (.a, .absY addr)
  | .ldaIndX zp => some (.a, .indX zp)
  | .ldaIndY zp => some (.a, .indY zp)
  | .ldxImm imm => some (.x, .imm imm)
  | .ldxZp zp => some (.x, .zp zp)
  | .ldxZpY zp => some (.x, .zpY zp)
  | .ldxAbs addr => some (.x, .abs addr)
  | .ldxAbsY addr => some (.x, .absY addr)
  | .ldyImm imm => some (.y, .imm imm)
  | .ldyZp zp => some (.y, .zp zp)
  | .ldyZpX zp => some (.y, .zpX zp)
  | .ldyAbs addr => some (.y, .abs addr)
  | .ldyAbsX addr => some (.y, .absX addr)
  | .oraImm _ => none
  | .jsrAbs _ => none

/-- R110: the page-cross cycle, on the pre-index base. -/
def crossCycle (base : Word) (index : Byte) : Nat :=
  if 0xFF < (lo8 base).toNat + index.toNat then 1 else 0

/-- R63: the cycles column of the opcode table (JSR's 6 is decision D3, log entry 3). -/
def instrCycles (s : State) : Instr → Nat
  | .ldaImm _ => 2
  | .ldaZp _ => 3
  | .ldaZpX _ => 4
  | .ldaAbs _ => 4
  | .ldaAbsX addr => 4 + crossCycle addr s.x
  | .ldaAbsY addr => 4 + crossCycle addr s.y
  | .ldaIndX _ => 6
  | .ldaIndY zp => 5 + crossCycle (s.readWord (zext16 zp)) s.y
  | .ldxImm _ => 2
  | .ldxZp _ => 3
  | .ldxZpY _ => 4
  | .ldxAbs _ => 4
  | .ldxAbsY addr => 4 + crossCycle addr s.y
  | .ldyImm _ => 2
  | .ldyZp _ => 3
  | .ldyZpX _ => 4
  | .ldyAbs _ => 4
  | .ldyAbsX addr => 4 + crossCycle addr s.x
  | .oraImm _ => 2
  | .jsrAbs _ => 6

/-- The state after the instructions `is`, fetched one after the other from `s`; none where the
bytes at PC do not decode to the next of them or it gives no next state. -/
def runInstrs : List Instr → State → Option State
  | [], s => some s
  | i :: is, s =>
    match decode s.fetchBytes, exec i s with
    | .instr j _, .next t => if j = i then runInstrs is t else none
    | _, _ => none

/-- The sum of the costs of those instructions (R88). -/
def totalCycles : List Instr → State → Nat
  | [], _ => 0
  | i :: is, s =>
    match exec i s with
    | .next t => instrCycles s i + totalCycles is t
    | .fault _ => 0
    | .refused _ => 0

/-- A one-operand-byte instruction `mk`: its operand is the byte after the opcode, it completes from
every state, and its whole effect is to write `val z s` to `r` in `cycles z s` cycles, PC moving
by 2. -/
def ByteForm (mk : Byte → Instr) (r : Reg) (val : Byte → State → Byte)
    (cycles : Byte → State → Nat) : Prop :=
  (∀ (s : State) z rest, decode s.fetchBytes = .instr (mk z) rest → z = s.readByte (add16 s.pc 1)) ∧
  ∀ z s, ∃ t, exec (mk z) s = .next t ∧ WritesRegister s t r (val z s) 2 (cycles z s)

/-- A two-operand-byte instruction `mk`: its operand is the little-endian word after the opcode, and
otherwise as `ByteForm`, PC moving by 3. -/
def WordForm (mk : Word → Instr) (r : Reg) (val : Word → State → Byte)
    (cycles : Word → State → Nat) : Prop :=
  (∀ (s : State) addr rest, decode s.fetchBytes = .instr (mk addr) rest →
    addr = mkWord (s.readByte (add16 s.pc 2)) (s.readByte (add16 s.pc 1))) ∧
  ∀ addr s, ∃ t, exec (mk addr) s = .next t ∧
    WritesRegister s t r (val addr s) 3 (cycles addr s)

/-- What the host reads of every item of R35, no read being refused. -/
def HostSees (s : State) (regs : Reg → Byte) (pc sp : Word) (flags : Flag → Bool)
    (bytes : Word → Byte) : Prop :=
  (∀ r, hostReadReg r s = .ok (regs r)) ∧ hostReadPc s = .ok pc ∧ hostReadSp s = .ok sp ∧
  (∀ f, hostReadFlag f s = .ok (flags f)) ∧ ∀ addr, hostReadByte addr s = .ok (bytes addr)

/-- The host write `w` is done: the engine is still idle, the latch and the recorded result are kept,
and the host then reads these items. -/
def HostWriteLeaves (s : State) (w : HostWrite) (regs : Reg → Byte) (pc sp : Word)
    (flags : Flag → Bool) (bytes : Word → Byte) : Prop :=
  ∃ t, hostWrite w s = .next t ∧ t.Ready ∧ t.latch = s.latch ∧ t.result = s.result ∧
    HostSees t regs pc sp flags bytes

/-- The cycles of earlier instructions added to a call's result. -/
def Result.addCycles (extra : Nat) : Result → Result
  | .ok consumed => .ok (extra + consumed)
  | .unsupported op pc consumed => .unsupported op pc (extra + consumed)

/-- The byte the last of a list of writes (oldest first) left at an address, if any did. -/
def lastWrite (addr : Word) : List (Word × Byte) → Option Byte
  | [] => none
  | w :: rest =>
    match lastWrite addr rest with
    | some val => some val
    | none => if w.1 = addr then some w.2 else none

/-- The state after a list of byte writes, oldest first (R42). -/
def writeAll (s : State) : List (Word × Byte) → State
  | [] => s
  | w :: rest => writeAll (s.writeByte w.1 w.2) rest

/-- The twenty supported opcode bytes of R63 (decision D1, log entry 1). -/
def supportedOpcodes : List Byte :=
  [0xA9, 0xA5, 0xB5, 0xAD, 0xBD, 0xB9, 0xA1, 0xB1, 0xA2, 0xA6]
  ++ [0xB6, 0xAE, 0xBE, 0xA0, 0xA4, 0xB4, 0xAC, 0xBC, 0x09, 0x20]

end Sys2Proof.Machine
end

