-- ==== Sys2Proof/Certificates/Slice0/Obligations.lean ====
section
/-!
DEFINITION. The statements for the provers, from the spec's rules: encoding, memory, the addressing
modes, the instructions and their frames, the engine, the error path, Reset and the host.
-/

open Sys2Proof Sys2Proof.Machine

/-! Encoding -/

/-- A few words of the table, written out from R61 and R63 (opcode bytes: decision D1, PRESUMED,
log entry 1). -/
def Obligations.TableWordsDecodeToTheirRows : Prop :=
  decode [0xA9, 0x84] = .instr (.ldaImm 0x84) [] ∧
  decode [0xBD, 0x02, 0x44] = .instr (.ldaAbsX 0x4402) [] ∧
  decode [0xB6, 0x80] = .instr (.ldxZpY 0x80) [] ∧
  decode [0xBC, 0x02, 0x44] = .instr (.ldyAbsX 0x4402) [] ∧
  decode [0x09, 0x80] = .instr (.oraImm 0x80) [] ∧
  decode [0x20, 0x34, 0x12] = .instr (.jsrAbs 0x1234) [] ∧
  decode [0x00, 0xA9, 0x01] = .rejected (.unsupportedOpcode 0x00)

/-- The decoder reads back every instruction from its own bytes, whatever follows them. -/
def Obligations.DecodeOfEncodeIsTheInstruction : Prop :=
  ∀ (i : Instr) (rest : List Byte), decode (encode i ++ rest) = .instr i rest

/-- The other direction: bytes that decode are the encoding of what they decode to. -/
def Obligations.DecodedBytesAreTheEncoding : Prop :=
  ∀ (bytes : List Byte) (i : Instr) (rest : List Byte),
    decode bytes = .instr i rest → bytes = encode i ++ rest

/-- R60: the instruction's bytes stand at consecutive addresses from PC; the opcode byte alone
decides operation, mode and length; every instruction has one or two operand bytes. -/
def Obligations.OpcodeByteDecidesFormAndLength : Prop :=
  (∀ (s : State) (i : Instr) (rest : List Byte), decode s.fetchBytes = .instr i rest →
    (encode i).length = i.length ∧
    ∀ j b, (encode i)[j]? = some b → s.readByte (add16 s.pc (BitVec.ofNat 16 j)) = b) ∧
  (∀ (op : Byte) (bytes bytes' rest rest' : List Byte) (i i' : Instr),
    decode (op :: bytes) = .instr i rest → decode (op :: bytes') = .instr i' rest' →
    i.operation = i'.operation ∧ i.mode = i'.mode ∧ i.length = i'.length) ∧
  ∀ i : Instr, i.length = 2 ∨ i.length = 3

/-- Twenty distinct opcode bytes decode (with operand bytes after them) and every other one is
rejected as unsupported (the list is decision D1's, PRESUMED, log entry 1). -/
def Obligations.ExactlyTwentyOpcodesAreSupported : Prop :=
  supportedOpcodes.Nodup ∧ supportedOpcodes.length = 20 ∧
  ∀ (op b1 b2 : Byte) (rest : List Byte),
    (op ∈ supportedOpcodes → ∃ i tail, decode (op :: b1 :: b2 :: rest) = .instr i tail) ∧
    (op ∉ supportedOpcodes →
      decode (op :: b1 :: b2 :: rest) = .rejected (.unsupportedOpcode op))

/-- The raw triples the checks accept are exactly the instructions of the syntax (mode sets of
conflict C1 and decision D2, log entry 2). -/
def Obligations.WellFormedTriplesAreTheInstructions : Prop :=
  ∀ (op : Operation) (m : Mode) (operand : Nat),
    wellFormed op m operand = true ↔
      ∃ i : Instr, i.operation = op ∧ i.mode = m ∧ i.operandNat = operand

/-! Memory -/

/-- R42, R46: a read returns the last value written to that byte, else what it held before, which
after Reset is 0x00; writes touch nothing else. -/
def Obligations.ReadReturnsTheLastWrite : Prop :=
  (∀ (s : State) (writes : List (Word × Byte)) (addr : Word), s.mem.wf = true →
    (writeAll s writes).readByte addr = (lastWrite addr writes).getD (s.readByte addr) ∧
    { writeAll s writes with mem := s.mem } = s) ∧
  ∀ addr, State.reset.readByte addr = 0x00

/-- A word write is read back whole, its low byte at N and its high byte at N+1 modulo 2^16, the
wrap at 0xFFFF (the spec's own inference in R43 and R44) included. -/
def Obligations.WordAccessIsLittleEndian : Prop :=
  ∀ (s : State) (addr val : Word), s.mem.wf = true →
    (s.writeWord addr val).readWord addr = val ∧
    (s.writeWord addr val).readByte addr = lo8 val ∧
    (s.writeWord addr val).readByte (add16 addr 1) = hi8 val ∧
    (∀ a, a ≠ addr → a ≠ add16 addr 1 → (s.writeWord addr val).readByte a = s.readByte a) ∧
    s.readWord addr = mkWord (s.readByte (add16 addr 1)) (s.readByte addr)

/-! Addressing modes, with the loads that use them -/

/-- R101. -/
def Obligations.ImmediateLoadsTheNextByte : Prop :=
  ByteForm .ldaImm .a (fun v _ => v) (fun _ _ => 2) ∧
  ByteForm .ldxImm .x (fun v _ => v) (fun _ _ => 2) ∧
  ByteForm .ldyImm .y (fun v _ => v) (fun _ _ => 2)

/-- R102. -/
def Obligations.ZeroPageLoadsFromPageZero : Prop :=
  ByteForm .ldaZp .a (fun z s => s.readByte (zext16 z)) (fun _ _ => 3) ∧
  ByteForm .ldxZp .x (fun z s => s.readByte (zext16 z)) (fun _ _ => 3) ∧
  ByteForm .ldyZp .y (fun z s => s.readByte (zext16 z)) (fun _ _ => 3) ∧
  ∀ z : Byte, (zext16 z).toNat ≤ 0xFF

/-- R103. -/
def Obligations.ZeroPageXWrapsInPageZero : Prop :=
  ByteForm .ldaZpX .a (fun z s => s.readByte (zext16 (add8 z s.x))) (fun _ _ => 4) ∧
  ByteForm .ldyZpX .y (fun z s => s.readByte (zext16 (add8 z s.x))) (fun _ _ => 4) ∧
  (∀ z x : Byte, (zext16 (add8 z x)).toNat = (z.toNat + x.toNat) % 256) ∧
  zext16 (add8 0x80 0xFF) = 0x007F

/-- R104. -/
def Obligations.ZeroPageYWrapsInPageZero : Prop :=
  ByteForm .ldxZpY .x (fun z s => s.readByte (zext16 (add8 z s.y))) (fun _ _ => 4) ∧
  (∀ z y : Byte, (zext16 (add8 z y)).toNat = (z.toNat + y.toNat) % 256) ∧
  zext16 (add8 0xFF 0x01) = 0x0000

/-- R105. -/
def Obligations.AbsoluteLoadsFromTheFullAddress : Prop :=
  WordForm .ldaAbs .a (fun addr s => s.readByte addr) (fun _ _ => 4) ∧
  WordForm .ldxAbs .x (fun addr s => s.readByte addr) (fun _ _ => 4) ∧
  WordForm .ldyAbs .y (fun addr s => s.readByte addr) (fun _ _ => 4)

/-- R106. -/
def Obligations.AbsoluteXAddsXAndPaysThePageCross : Prop :=
  WordForm .ldaAbsX .a (fun base s => s.readByte (add16 base (zext16 s.x)))
    (fun base s => 4 + if 0xFF < (lo8 base).toNat + s.x.toNat then 1 else 0) ∧
  WordForm .ldyAbsX .y (fun base s => s.readByte (add16 base (zext16 s.x)))
    (fun base s => 4 + if 0xFF < (lo8 base).toNat + s.x.toNat then 1 else 0) ∧
  add16 0x4402 (zext16 0xFF) = 0x4501 ∧ add16 0xFFFF (zext16 0x01) = 0x0000 ∧
  add16 0x4400 (zext16 0xFF) = 0x44FF

/-- R107. -/
def Obligations.AbsoluteYAddsYAndPaysThePageCross : Prop :=
  WordForm .ldaAbsY .a (fun base s => s.readByte (add16 base (zext16 s.y)))
    (fun base s => 4 + if 0xFF < (lo8 base).toNat + s.y.toNat then 1 else 0) ∧
  WordForm .ldxAbsY .x (fun base s => s.readByte (add16 base (zext16 s.y)))
    (fun base s => 4 + if 0xFF < (lo8 base).toNat + s.y.toNat then 1 else 0)

/-- Indexed Indirect (X): the pointer wraps in page 0; its high byte follows by a 16-bit add, so
from 0x0100 for pointer 0xFF (decision D13, log entry 6). -/
def Obligations.IndexedIndirectReadsThroughTheXPointer : Prop :=
  ByteForm .ldaIndX .a
    (fun z s => s.readByte (mkWord (s.readByte (add16 (zext16 (add8 z s.x)) 1))
      (s.readByte (zext16 (add8 z s.x)))))
    (fun _ _ => 6) ∧
  add16 (zext16 0xFF) 1 = 0x0100

/-- Indirect Indexed (Y): the base is the word at the pointer (high byte as above, decision D13, log
entry 6), then Y is added in 16 bits, with the page-cross cycle on the pre-index base. -/
def Obligations.IndirectIndexedAddsYToThePointedBase : Prop :=
  ByteForm .ldaIndY .a
    (fun z s => s.readByte (add16 (mkWord (s.readByte (add16 (zext16 z) 1))
      (s.readByte (zext16 z))) (zext16 s.y)))
    (fun z s => 5 + if 0xFF < (s.readByte (zext16 z)).toNat + s.y.toNat then 1 else 0)

/-- The page-cross condition on the pre-index base is the change of the high byte of the address
(the spec's own inference in R110). -/
def Obligations.PageCrossIsAChangeOfTheHighByte : Prop :=
  ∀ (base : Word) (index : Byte),
    (pageCross base index = true ↔ 0xFF < (lo8 base).toNat + index.toNat) ∧
    (pageCross base index = true ↔ 0xFF - index.toNat < (lo8 base).toNat) ∧
    (pageCross base index = true ↔ hi8 (add16 base (zext16 index)) ≠ hi8 base)

/-! The instructions -/

/-- Every load completes from every state: the resolved operand goes to its register, Z and N
follow it, PC moves by the length, the counter by the mode's cycles; nothing else changes. -/
def Obligations.EveryLoadWritesItsRegisterAndNothingElse : Prop :=
  ∀ (i : Instr) (r : Reg) (o : Operand), loadForm i = some (r, o) →
    ∀ s : State, ∃ t, exec i s = .next t ∧
      WritesRegister s t r (o.value s) i.length (instrCycles s i)

/-- No load reads the register it writes (LDX indexes by Y only, LDY by X only: decision D2, log
entry 2): its old value changes nothing in the next state. -/
def Obligations.LoadsIgnoreTheOldValueOfTheirRegister : Prop :=
  ∀ (i : Instr) (r : Reg) (o : Operand), loadForm i = some (r, o) →
    ∀ (s : State) (old : Byte), exec i (s.setReg r old) = exec i s

/-- ORA Immediate completes from every state and writes A | imm8 to A, with Z and N from the result,
in 2 cycles; no carry, no other register, flag or byte. -/
def Obligations.OraImmediateWritesTheOrOfAAndTheOperand : Prop :=
  ByteForm .oraImm .a (fun v s => s.a ||| v) (fun _ _ => 2)

/-- JSR completes from every state: PC is the target, SP one more (conflict C2, log entry 5), 6
cycles (decision D3, log entry 3); no data register and no flag changes, and no byte of memory but
the two at the address pushed to, which is SP itself (decision D4, log entry 4). -/
def Obligations.JsrJumpsAndMovesTheStackPointer : Prop :=
  (∀ (s : State) addr rest, decode s.fetchBytes = .instr (.jsrAbs addr) rest →
    addr = mkWord (s.readByte (add16 s.pc 2)) (s.readByte (add16 s.pc 1))) ∧
  ∀ (target : Word) (s : State), ∃ t, exec (.jsrAbs target) s = .next t ∧
    t.pc = target ∧ t.sp = add16 s.sp 1 ∧ (∀ r, t.reg r = s.reg r) ∧ t.z = s.z ∧ t.n = s.n ∧
    Untouched s t ∧ Consumed s t 6 ∧ stackAddr s.sp = s.sp ∧
    ∀ a, a ≠ stackAddr s.sp → a ≠ add16 (stackAddr s.sp) 1 → t.readByte a = s.readByte a

/-- JSR leaves opcode address + 2 at the pre-call SP (decision D4, log entry 4), low byte first, and
the fetch after it reads those bytes wherever they are (decision D15); the target is the one read
before the push. -/
def Obligations.JsrPushIsReadBackAndFetched : Prop :=
  ∀ (target : Word) (s : State), s.mem.wf = true → ∃ t, exec (.jsrAbs target) s = .next t ∧
    (∀ a, t.readByte a =
      if a = s.sp then lo8 (add16 s.pc 2)
      else if a = add16 s.sp 1 then hi8 (add16 s.pc 2)
      else s.readByte a) ∧
    t.fetchBytes = [t.readByte target, t.readByte (add16 target 1), t.readByte (add16 target 2)]

/-- Between instructions PC is the opcode's address plus the length, and after JSR the target (the
spec's own inference in R26). -/
def Obligations.PcFollowsLengthOrJsrTarget : Prop :=
  ∀ (i : Instr) (s t : State), exec i s = .next t →
    (i.operation ≠ .jsr → t.pc = add16 s.pc (BitVec.ofNat 16 (encode i).length)) ∧
    ∀ target, i = .jsrAbs target → t.pc = target

/-- R29, R30: loads and ORA write Z and N from the register they wrote, JSR keeps them, and no
instruction reads them. -/
def Obligations.ZeroAndNegativeFollowTheWrittenRegister : Prop :=
  ∀ (i : Instr) (s t : State), exec i s = .next t →
    (∀ r, destination i = some r → t.z = decide (t.reg r = 0x00) ∧ t.n = (t.reg r).getLsbD 7 ∧
      ∀ zb nb, exec i { s with z := zb, n := nb } = .next t) ∧
    (destination i = none → t.z = s.z ∧ t.n = s.n ∧
      ∀ zb nb, exec i { s with z := zb, n := nb } = .next { t with z := zb, n := nb })

/-- R31: C, I, D, B and V are written and read by no instruction, keep their value across every
Execute, are 0 after Reset, and the host sets them. -/
def Obligations.OtherFlagsAreStorageOnly : Prop :=
  (∀ (i : Instr) (s t : State) (cb ib db bb vb : Bool), exec i s = .next t →
    t.c = s.c ∧ t.i = s.i ∧ t.d = s.d ∧ t.b = s.b ∧ t.v = s.v ∧
    exec i { s with c := cb, i := ib, d := db, b := bb, v := vb } =
      .next { t with c := cb, i := ib, d := db, b := bb, v := vb }) ∧
  (∀ (budget : Nat) (s t : State), execute budget s = .next t →
    t.c = s.c ∧ t.i = s.i ∧ t.d = s.d ∧ t.b = s.b ∧ t.v = s.v) ∧
  (∀ s t : State, resetCommand s = .next t →
    t.c = false ∧ t.i = false ∧ t.d = false ∧ t.b = false ∧ t.v = false) ∧
  ∀ (f : Flag) (bit : Bool) (s : State), s.call = none →
    ∃ t, hostWrite (.flag f bit) s = .next t ∧ t.flag f = bit

/-- R21: A is written by LDA and ORA only and read by ORA only. -/
def Obligations.AccumulatorIsReadByOraAlone : Prop :=
  ∀ (i : Instr) (s t : State) (old : Byte), exec i s = .next t →
    (i.operation = .lda → exec i { s with a := old } = .next t) ∧
    (∀ imm, i = .oraImm imm → t.a = s.a ||| imm) ∧
    (i.operation ≠ .lda → i.operation ≠ .ora →
      t.a = s.a ∧ exec i { s with a := old } = .next { t with a := old })

/-- SP is read and written by JSR only (16 bits, decision D4's address register, log entry 4). -/
def Obligations.StackPointerIsUsedByJsrAlone : Prop :=
  ∀ (i : Instr) (s t : State) (old : Word), exec i s = .next t →
    (i.operation ≠ .jsr →
      t.sp = s.sp ∧ exec i { s with sp := old } = .next { t with sp := old }) ∧
    (i.operation = .jsr → t.sp = add16 s.sp 1)

/-- Every instruction takes its row's cycles from the counter of the call it runs in (JSR's 6 is
decision D3, log entry 3) and leaves the budget. -/
def Obligations.InstructionsConsumeTheirTableCycles : Prop :=
  ∀ (i : Instr) (s : State) (k : Call), s.call = some k →
    ∃ t, exec i s = .next t ∧
      t.call = some
        { budget := k.budget, remaining := k.remaining - (instrCycles s i : Int) }

/-! The engine -/

/-- In a call with cycles left, a step is exec of the instruction the bytes at PC decode to. Idle
with the latch clear, a step is the same instruction run by the host's Execute(1) (DESIGN CHOICE,
log entry 10): the engine is idle again and the result is the instruction's cycles. -/
def Obligations.StepRunsTheDecodedInstruction : Prop :=
  ∀ (s : State) (i : Instr) (rest : List Byte), decode s.fetchBytes = .instr i rest →
    (∀ k, s.InCall k → 0 < k.remaining → step s = exec i s) ∧
    (s.Ready → s.latch = none → ∃ t, exec i s = .next t ∧ t.call = none ∧
      step s = .next { t with result := some (.ok (instrCycles s i)) })

/-- A call whose counter is used up returns Ok(budget - remaining) and changes nothing else. -/
def Obligations.ExhaustedCallReturnsWhatItConsumed : Prop :=
  ∀ (s : State) (k : Call), s.InCall k → k.remaining ≤ 0 →
    step s = .next { s with
      call := none
      result := some (.ok ((k.budget : Int) - k.remaining).toNat) }

/-- The error path (decisions D5 and D6, log entry 7): an unsupported opcode fetched in a call with
cycles left moves PC by one, sets the latch and returns the error result with the fetch cycle
counted; nothing else changes. Idle, the step is Execute(1) (log entry 10). -/
def Obligations.UnsupportedOpcodeSetsTheLatchAndReturns : Prop :=
  ∀ (s : State), s.readByte s.pc ∉ supportedOpcodes →
    (∀ k, s.InCall k → 0 < k.remaining →
      step s = .next { s with
        pc := add16 s.pc 1
        latch := some (s.readByte s.pc, s.pc)
        call := none
        result := some (.unsupported (s.readByte s.pc) s.pc
          ((k.budget : Int) - (k.remaining - 1)).toNat) }) ∧
    (s.Ready → s.latch = none →
      step s = .next { s with
        pc := add16 s.pc 1
        latch := some (s.readByte s.pc, s.pc)
        result := some (.unsupported (s.readByte s.pc) s.pc 1) })

/-- The latch is sticky (decision D6, log entry 7): every Execute(budget > 0) returns the latched
error with 0 cycles and runs nothing, Execute(0) returns Ok(0), no host write clears it, Reset
does. -/
def Obligations.LatchStopsEveryExecuteUntilReset : Prop :=
  ∀ (s : State) (op : Byte) (opPc : Word), s.Ready → s.latch = some (op, opPc) →
    (∀ budget, 0 < budget →
      execute budget s = .next { s with result := some (.unsupported op opPc 0) }) ∧
    execute 0 s = .next { s with result := some (.ok 0) } ∧
    step s = .next { s with result := some (.unsupported op opPc 0) } ∧
    (∀ w, ∃ t, hostWrite w s = .next t ∧ t.latch = some (op, opPc)) ∧
    ∃ t, resetCommand s = .next t ∧ t.latch = none

/-- R81: Execute(0) fetches nothing, changes nothing and returns Ok(0), latched or not. The model's own
field `result` records the return (log entry 11); before the first Reset R183 refuses it (log entry
20). -/
def Obligations.ExecuteZeroDoesNothing : Prop :=
  ∀ s : State, s.Ready → execute 0 s = .next { s with result := some (.ok 0) }

/-- An Execute with a budget above 0 and the latch clear is a run of steps from the begun call, each
but the last leaving the call in progress, and it always returns. -/
def Obligations.ExecuteIsStepsUntilTheCallReturns : Prop :=
  ∀ (budget : Nat) (s : State), 0 < budget → s.Ready → s.latch = none →
    ∃ (k : Nat) (t : State), 0 < k ∧ k ≤ budget + 1 ∧ execute budget s = .next t ∧
      Sys2Proof.core.run k (s.beginCall budget) = .next t ∧ t.call = none ∧
      t.result.isSome = true ∧
      ∀ j, j < k → ∃ u : State, ∃ call : Call,
        Sys2Proof.core.run j (s.beginCall budget) = .next u ∧ u.call = some call

/-- A normal result overruns the budget by at most 5 (the spec's own inference in R89; JSR's 6
cycles are decision D3, log entry 3). -/
def Obligations.OkResultOverrunsByAtMostFive : Prop :=
  ∀ (budget consumed : Nat) (s t : State), 0 < budget → execute budget s = .next t →
    t.result = some (.ok consumed) → budget ≤ consumed ∧ consumed ≤ budget + 5

/-- A normal result is the sum of the cycles of the instructions the call ran one after the other
from the bytes at PC, and the call leaves the state they leave. -/
def Obligations.OkResultIsTheSumOfTheInstructionsRun : Prop :=
  ∀ (budget consumed : Nat) (s t : State), s.Ready → s.latch = none →
    execute budget s = .next t → t.result = some (.ok consumed) →
    ∃ (is : List Instr) (u : State), runInstrs is s = some u ∧ consumed = totalCycles is s ∧
      t = { u with result := some (.ok consumed) }

/-- An error result of a call: the instructions before it ran and are counted, plus one for the
fetch; the latch and PC point at the opcode; it was fetched with budget left (decisions D5 and D6,
log entry 7; the priority is the spec's own inference in R165). -/
def Obligations.ErrorResultCountsTheInstructionsBeforeIt : Prop :=
  ∀ (budget consumed : Nat) (s t : State) (op : Byte) (opPc : Word), s.Ready → s.latch = none →
    execute budget s = .next t → t.result = some (.unsupported op opPc consumed) →
    op ∉ supportedOpcodes ∧ 1 ≤ consumed ∧ consumed ≤ budget ∧
    ∃ (is : List Instr) (u : State), runInstrs is s = some u ∧
      consumed = totalCycles is s + 1 ∧ u.pc = opPc ∧ u.readByte opPc = op ∧
      t = { u with
        pc := add16 opPc 1
        latch := some (op, opPc)
        result := some (.unsupported op opPc consumed) }

/-- Every budget from 1 to an instruction's cost runs exactly that instruction and returns its cost
(the spec's own inference in R92). -/
def Obligations.SufficientBudgetRunsExactlyOneInstruction : Prop :=
  ∀ (s : State) (i : Instr) (rest : List Byte) (budget : Nat), s.Ready → s.latch = none →
    decode s.fetchBytes = .instr i rest → 1 ≤ budget → budget ≤ instrCycles s i →
    ∃ t, exec i s = .next t ∧
      execute budget s = .next { t with result := some (.ok (instrCycles s i)) }

/-- No overrun is carried from one call to the next (decision D8): a call that returned Ok(c1)
followed by a call with budget b2 is one call with budget c1 + b2, its result c1 cycles more. -/
def Obligations.TwoCallsAreOneCallOfTheirTotal : Prop :=
  ∀ (b1 b2 c1 : Nat) (s t u : State) (r : Result), s.Ready →
    execute b1 s = .next t → t.result = some (.ok c1) →
    execute b2 t = .next u → u.result = some r →
    execute (c1 + b2) s = .next { u with result := some (r.addCycles c1) }

/-- After the first Reset a step always gives a next state: the block has no trap, no access fault
and no reserved encoding that stops it. -/
def Obligations.StepNeverStopsAfterReset : Prop :=
  ∀ s : State, s.wasReset = true → ∃ t, step s = .next t ∧ t.wasReset = true

/-! The invariant -/

/-- State.reset meets the invariant. -/
def Obligations.ResetMeetsTheInvariant : Prop := State.reset.Inv

/-- Every step keeps the invariant: memory canonical, the counter within its bounds, the latch and
the error result naming unsupported opcodes only, no call once latched. -/
def Obligations.StepKeepsTheInvariant : Prop :=
  ∀ s t : State, s.Inv → step s = .next t → t.Inv

/-- Every host command keeps it too. -/
def Obligations.CommandsKeepTheInvariant : Prop :=
  ∀ (cmd : Command) (s t : State), s.Inv → command cmd s = .next t → t.Inv

/-! Reset and the host -/

/-- Reset from any idle state, the first one too, leaves the values of R36's table (the latch is
decision D6's, log entry 7). -/
def Obligations.ResetLeavesTheTableValues : Prop :=
  ∀ s : State, s.call = none → ∃ t, resetCommand s = .next t ∧
    t.pc = 0xFFFC ∧ t.sp = 0x00FF ∧ t.a = 0x00 ∧ t.x = 0x00 ∧ t.y = 0x00 ∧
    (∀ f, t.flag f = false) ∧ (∀ addr, t.readByte addr = 0x00) ∧
    t.latch = none ∧ t.call = none ∧ t.wasReset = true

/-- With no program written, an Execute right after Reset returns Unsupported(0x00, 0xFFFC, 1) with
PC at 0xFFFD (the spec's own inference in R182; decisions D1, D5 and D6, log entries 1 and 7). -/
def Obligations.EmptyMemoryAfterResetIsUnsupported : Prop :=
  ∀ budget, 0 < budget → ∃ t, execute budget State.reset = .next t ∧
    t.result = some (.unsupported 0x00 0xFFFC 1) ∧ t.pc = 0xFFFD ∧
    t.latch = some (0x00, 0xFFFC) ∧ ∀ addr, t.readByte addr = 0x00

/-- Before the first Reset a step, an Execute and every host read are refused (decision D11, log
entry 12). -/
def Obligations.BeforeTheFirstResetIsRefused : Prop :=
  ∀ s : State, s.wasReset = false →
    step s = .refused .beforeFirstReset ∧
    (∀ budget, execute budget s = .refused .beforeFirstReset) ∧
    (∀ r, hostReadReg r s = .error .beforeFirstReset) ∧
    hostReadPc s = .error .beforeFirstReset ∧ hostReadSp s = .error .beforeFirstReset ∧
    (∀ f, hostReadFlag f s = .error .beforeFirstReset) ∧
    ∀ addr, hostReadByte addr s = .error .beforeFirstReset

/-- During a call every command and host read is refused (decisions D9 and D23, log entry 13). -/
def Obligations.CommandsDuringACallAreRefused : Prop :=
  ∀ (s : State) (k : Call), s.InCall k →
    (∀ cmd, command cmd s = .refused .callInProgress) ∧
    (∀ r, hostReadReg r s = .error .callInProgress) ∧
    hostReadPc s = .error .callInProgress ∧ hostReadSp s = .error .callInProgress ∧
    (∀ f, hostReadFlag f s = .error .callInProgress) ∧
    ∀ addr, hostReadByte addr s = .error .callInProgress

/-- While the engine is idle after a Reset the host reads every register, flag and byte, and what it
reads is the very field or byte that exec uses; a host write is never refused and changes exactly the
item it names: every other item reads as before, and the latch, the recorded result and the idle
engine stay (decision D9, log entries 13 and 23). -/
def Obligations.HostWritesChangeExactlyTheirItem : Prop :=
  ∀ s : State, s.Ready →
    HostSees s s.reg s.pc s.sp s.flag s.readByte ∧
    (hostReadReg .a s = .ok s.a ∧ hostReadReg .x s = .ok s.x ∧ hostReadReg .y s = .ok s.y) ∧
    (hostReadFlag .c s = .ok s.c ∧ hostReadFlag .z s = .ok s.z ∧ hostReadFlag .i s = .ok s.i ∧
      hostReadFlag .d s = .ok s.d ∧ hostReadFlag .b s = .ok s.b ∧ hostReadFlag .v s = .ok s.v ∧
      hostReadFlag .n s = .ok s.n) ∧
    (∀ addr, hostReadByte addr s = .ok (s.mem.read addr.toNat)) ∧
    (∀ r val,
      HostWriteLeaves s (.reg r val) (Function.update s.reg r val) s.pc s.sp s.flag s.readByte) ∧
    (∀ val, HostWriteLeaves s (.pc val) s.reg val s.sp s.flag s.readByte) ∧
    (∀ val, HostWriteLeaves s (.sp val) s.reg s.pc val s.flag s.readByte) ∧
    (∀ f bit,
      HostWriteLeaves s (.flag f bit) s.reg s.pc s.sp (Function.update s.flag f bit) s.readByte) ∧
    (s.mem.wf = true → ∀ addr val,
      HostWriteLeaves s (.byte addr val) s.reg s.pc s.sp s.flag
        (Function.update s.readByte addr val))
end

