-- ==== Sys2Proof/Laws/State.lean ====
section
/-!
SUPPORT. The fields of State after each named update: one lemma per field and update.
-/

namespace Sys2Proof.Machine

@[simp] theorem State.setReg_a (s : State) (r : Reg) (val : Byte) :
    (s.setReg r val).a = if r = .a then val else s.a := rfl

@[simp] theorem State.setReg_x (s : State) (r : Reg) (val : Byte) :
    (s.setReg r val).x = if r = .x then val else s.x := rfl

@[simp] theorem State.setReg_y (s : State) (r : Reg) (val : Byte) :
    (s.setReg r val).y = if r = .y then val else s.y := rfl

@[simp] theorem State.setReg_pc (s : State) (r : Reg) (val : Byte) :
    (s.setReg r val).pc = s.pc := rfl

@[simp] theorem State.setReg_sp (s : State) (r : Reg) (val : Byte) :
    (s.setReg r val).sp = s.sp := rfl

@[simp] theorem State.setReg_c (s : State) (r : Reg) (val : Byte) :
    (s.setReg r val).c = s.c := rfl

@[simp] theorem State.setReg_z (s : State) (r : Reg) (val : Byte) :
    (s.setReg r val).z = s.z := rfl

@[simp] theorem State.setReg_i (s : State) (r : Reg) (val : Byte) :
    (s.setReg r val).i = s.i := rfl

@[simp] theorem State.setReg_d (s : State) (r : Reg) (val : Byte) :
    (s.setReg r val).d = s.d := rfl

@[simp] theorem State.setReg_b (s : State) (r : Reg) (val : Byte) :
    (s.setReg r val).b = s.b := rfl

@[simp] theorem State.setReg_v (s : State) (r : Reg) (val : Byte) :
    (s.setReg r val).v = s.v := rfl

@[simp] theorem State.setReg_n (s : State) (r : Reg) (val : Byte) :
    (s.setReg r val).n = s.n := rfl

@[simp] theorem State.setReg_mem (s : State) (r : Reg) (val : Byte) :
    (s.setReg r val).mem = s.mem := rfl

@[simp] theorem State.setReg_latch (s : State) (r : Reg) (val : Byte) :
    (s.setReg r val).latch = s.latch := rfl

@[simp] theorem State.setReg_call (s : State) (r : Reg) (val : Byte) :
    (s.setReg r val).call = s.call := rfl

@[simp] theorem State.setReg_result (s : State) (r : Reg) (val : Byte) :
    (s.setReg r val).result = s.result := rfl

@[simp] theorem State.setReg_wasReset (s : State) (r : Reg) (val : Byte) :
    (s.setReg r val).wasReset = s.wasReset := rfl

@[simp] theorem State.setPc_a (s : State) (target : Word) :
    (s.setPc target).a = s.a := rfl

@[simp] theorem State.setPc_x (s : State) (target : Word) :
    (s.setPc target).x = s.x := rfl

@[simp] theorem State.setPc_y (s : State) (target : Word) :
    (s.setPc target).y = s.y := rfl

@[simp] theorem State.setPc_pc (s : State) (target : Word) :
    (s.setPc target).pc = target := rfl

@[simp] theorem State.setPc_sp (s : State) (target : Word) :
    (s.setPc target).sp = s.sp := rfl

@[simp] theorem State.setPc_c (s : State) (target : Word) :
    (s.setPc target).c = s.c := rfl

@[simp] theorem State.setPc_z (s : State) (target : Word) :
    (s.setPc target).z = s.z := rfl

@[simp] theorem State.setPc_i (s : State) (target : Word) :
    (s.setPc target).i = s.i := rfl

@[simp] theorem State.setPc_d (s : State) (target : Word) :
    (s.setPc target).d = s.d := rfl

@[simp] theorem State.setPc_b (s : State) (target : Word) :
    (s.setPc target).b = s.b := rfl

@[simp] theorem State.setPc_v (s : State) (target : Word) :
    (s.setPc target).v = s.v := rfl

@[simp] theorem State.setPc_n (s : State) (target : Word) :
    (s.setPc target).n = s.n := rfl

@[simp] theorem State.setPc_mem (s : State) (target : Word) :
    (s.setPc target).mem = s.mem := rfl

@[simp] theorem State.setPc_latch (s : State) (target : Word) :
    (s.setPc target).latch = s.latch := rfl

@[simp] theorem State.setPc_call (s : State) (target : Word) :
    (s.setPc target).call = s.call := rfl

@[simp] theorem State.setPc_result (s : State) (target : Word) :
    (s.setPc target).result = s.result := rfl

@[simp] theorem State.setPc_wasReset (s : State) (target : Word) :
    (s.setPc target).wasReset = s.wasReset := rfl

@[simp] theorem State.setSp_a (s : State) (val : Word) :
    (s.setSp val).a = s.a := rfl

@[simp] theorem State.setSp_x (s : State) (val : Word) :
    (s.setSp val).x = s.x := rfl

@[simp] theorem State.setSp_y (s : State) (val : Word) :
    (s.setSp val).y = s.y := rfl

@[simp] theorem State.setSp_pc (s : State) (val : Word) :
    (s.setSp val).pc = s.pc := rfl

@[simp] theorem State.setSp_sp (s : State) (val : Word) :
    (s.setSp val).sp = val := rfl

@[simp] theorem State.setSp_c (s : State) (val : Word) :
    (s.setSp val).c = s.c := rfl

@[simp] theorem State.setSp_z (s : State) (val : Word) :
    (s.setSp val).z = s.z := rfl

@[simp] theorem State.setSp_i (s : State) (val : Word) :
    (s.setSp val).i = s.i := rfl

@[simp] theorem State.setSp_d (s : State) (val : Word) :
    (s.setSp val).d = s.d := rfl

@[simp] theorem State.setSp_b (s : State) (val : Word) :
    (s.setSp val).b = s.b := rfl

@[simp] theorem State.setSp_v (s : State) (val : Word) :
    (s.setSp val).v = s.v := rfl

@[simp] theorem State.setSp_n (s : State) (val : Word) :
    (s.setSp val).n = s.n := rfl

@[simp] theorem State.setSp_mem (s : State) (val : Word) :
    (s.setSp val).mem = s.mem := rfl

@[simp] theorem State.setSp_latch (s : State) (val : Word) :
    (s.setSp val).latch = s.latch := rfl

@[simp] theorem State.setSp_call (s : State) (val : Word) :
    (s.setSp val).call = s.call := rfl

@[simp] theorem State.setSp_result (s : State) (val : Word) :
    (s.setSp val).result = s.result := rfl

@[simp] theorem State.setSp_wasReset (s : State) (val : Word) :
    (s.setSp val).wasReset = s.wasReset := rfl

@[simp] theorem State.advancePc_a (s : State) (len : Nat) :
    (s.advancePc len).a = s.a := rfl

@[simp] theorem State.advancePc_x (s : State) (len : Nat) :
    (s.advancePc len).x = s.x := rfl

@[simp] theorem State.advancePc_y (s : State) (len : Nat) :
    (s.advancePc len).y = s.y := rfl

@[simp] theorem State.advancePc_pc (s : State) (len : Nat) :
    (s.advancePc len).pc = add16 s.pc (BitVec.ofNat 16 len) := rfl

@[simp] theorem State.advancePc_sp (s : State) (len : Nat) :
    (s.advancePc len).sp = s.sp := rfl

@[simp] theorem State.advancePc_c (s : State) (len : Nat) :
    (s.advancePc len).c = s.c := rfl

@[simp] theorem State.advancePc_z (s : State) (len : Nat) :
    (s.advancePc len).z = s.z := rfl

@[simp] theorem State.advancePc_i (s : State) (len : Nat) :
    (s.advancePc len).i = s.i := rfl

@[simp] theorem State.advancePc_d (s : State) (len : Nat) :
    (s.advancePc len).d = s.d := rfl

@[simp] theorem State.advancePc_b (s : State) (len : Nat) :
    (s.advancePc len).b = s.b := rfl

@[simp] theorem State.advancePc_v (s : State) (len : Nat) :
    (s.advancePc len).v = s.v := rfl

@[simp] theorem State.advancePc_n (s : State) (len : Nat) :
    (s.advancePc len).n = s.n := rfl

@[simp] theorem State.advancePc_mem (s : State) (len : Nat) :
    (s.advancePc len).mem = s.mem := rfl

@[simp] theorem State.advancePc_latch (s : State) (len : Nat) :
    (s.advancePc len).latch = s.latch := rfl

@[simp] theorem State.advancePc_call (s : State) (len : Nat) :
    (s.advancePc len).call = s.call := rfl

@[simp] theorem State.advancePc_result (s : State) (len : Nat) :
    (s.advancePc len).result = s.result := rfl

@[simp] theorem State.advancePc_wasReset (s : State) (len : Nat) :
    (s.advancePc len).wasReset = s.wasReset := rfl

@[simp] theorem State.consume_a (s : State) (cycles : Nat) :
    (s.consume cycles).a = s.a := rfl

@[simp] theorem State.consume_x (s : State) (cycles : Nat) :
    (s.consume cycles).x = s.x := rfl

@[simp] theorem State.consume_y (s : State) (cycles : Nat) :
    (s.consume cycles).y = s.y := rfl

@[simp] theorem State.consume_pc (s : State) (cycles : Nat) :
    (s.consume cycles).pc = s.pc := rfl

@[simp] theorem State.consume_sp (s : State) (cycles : Nat) :
    (s.consume cycles).sp = s.sp := rfl

@[simp] theorem State.consume_c (s : State) (cycles : Nat) :
    (s.consume cycles).c = s.c := rfl

@[simp] theorem State.consume_z (s : State) (cycles : Nat) :
    (s.consume cycles).z = s.z := rfl

@[simp] theorem State.consume_i (s : State) (cycles : Nat) :
    (s.consume cycles).i = s.i := rfl

@[simp] theorem State.consume_d (s : State) (cycles : Nat) :
    (s.consume cycles).d = s.d := rfl

@[simp] theorem State.consume_b (s : State) (cycles : Nat) :
    (s.consume cycles).b = s.b := rfl

@[simp] theorem State.consume_v (s : State) (cycles : Nat) :
    (s.consume cycles).v = s.v := rfl

@[simp] theorem State.consume_n (s : State) (cycles : Nat) :
    (s.consume cycles).n = s.n := rfl

@[simp] theorem State.consume_mem (s : State) (cycles : Nat) :
    (s.consume cycles).mem = s.mem := rfl

@[simp] theorem State.consume_latch (s : State) (cycles : Nat) :
    (s.consume cycles).latch = s.latch := rfl

@[simp] theorem State.consume_call (s : State) (cycles : Nat) :
    (s.consume cycles).call = s.call.map fun k => k.consume cycles := rfl

@[simp] theorem State.consume_result (s : State) (cycles : Nat) :
    (s.consume cycles).result = s.result := rfl

@[simp] theorem State.consume_wasReset (s : State) (cycles : Nat) :
    (s.consume cycles).wasReset = s.wasReset := rfl

@[simp] theorem State.beginCall_a (s : State) (budget : Nat) :
    (s.beginCall budget).a = s.a := rfl

@[simp] theorem State.beginCall_x (s : State) (budget : Nat) :
    (s.beginCall budget).x = s.x := rfl

@[simp] theorem State.beginCall_y (s : State) (budget : Nat) :
    (s.beginCall budget).y = s.y := rfl

@[simp] theorem State.beginCall_pc (s : State) (budget : Nat) :
    (s.beginCall budget).pc = s.pc := rfl

@[simp] theorem State.beginCall_sp (s : State) (budget : Nat) :
    (s.beginCall budget).sp = s.sp := rfl

@[simp] theorem State.beginCall_c (s : State) (budget : Nat) :
    (s.beginCall budget).c = s.c := rfl

@[simp] theorem State.beginCall_z (s : State) (budget : Nat) :
    (s.beginCall budget).z = s.z := rfl

@[simp] theorem State.beginCall_i (s : State) (budget : Nat) :
    (s.beginCall budget).i = s.i := rfl

@[simp] theorem State.beginCall_d (s : State) (budget : Nat) :
    (s.beginCall budget).d = s.d := rfl

@[simp] theorem State.beginCall_b (s : State) (budget : Nat) :
    (s.beginCall budget).b = s.b := rfl

@[simp] theorem State.beginCall_v (s : State) (budget : Nat) :
    (s.beginCall budget).v = s.v := rfl

@[simp] theorem State.beginCall_n (s : State) (budget : Nat) :
    (s.beginCall budget).n = s.n := rfl

@[simp] theorem State.beginCall_mem (s : State) (budget : Nat) :
    (s.beginCall budget).mem = s.mem := rfl

@[simp] theorem State.beginCall_latch (s : State) (budget : Nat) :
    (s.beginCall budget).latch = s.latch := rfl

@[simp] theorem State.beginCall_call (s : State) (budget : Nat) :
    (s.beginCall budget).call = some { budget := budget, remaining := (budget : Int) } := rfl

@[simp] theorem State.beginCall_result (s : State) (budget : Nat) :
    (s.beginCall budget).result = s.result := rfl

@[simp] theorem State.beginCall_wasReset (s : State) (budget : Nat) :
    (s.beginCall budget).wasReset = s.wasReset := rfl

@[simp] theorem State.endCall_a (s : State) (r : Result) :
    (s.endCall r).a = s.a := rfl

@[simp] theorem State.endCall_x (s : State) (r : Result) :
    (s.endCall r).x = s.x := rfl

@[simp] theorem State.endCall_y (s : State) (r : Result) :
    (s.endCall r).y = s.y := rfl

@[simp] theorem State.endCall_pc (s : State) (r : Result) :
    (s.endCall r).pc = s.pc := rfl

@[simp] theorem State.endCall_sp (s : State) (r : Result) :
    (s.endCall r).sp = s.sp := rfl

@[simp] theorem State.endCall_c (s : State) (r : Result) :
    (s.endCall r).c = s.c := rfl

@[simp] theorem State.endCall_z (s : State) (r : Result) :
    (s.endCall r).z = s.z := rfl

@[simp] theorem State.endCall_i (s : State) (r : Result) :
    (s.endCall r).i = s.i := rfl

@[simp] theorem State.endCall_d (s : State) (r : Result) :
    (s.endCall r).d = s.d := rfl

@[simp] theorem State.endCall_b (s : State) (r : Result) :
    (s.endCall r).b = s.b := rfl

@[simp] theorem State.endCall_v (s : State) (r : Result) :
    (s.endCall r).v = s.v := rfl

@[simp] theorem State.endCall_n (s : State) (r : Result) :
    (s.endCall r).n = s.n := rfl

@[simp] theorem State.endCall_mem (s : State) (r : Result) :
    (s.endCall r).mem = s.mem := rfl

@[simp] theorem State.endCall_latch (s : State) (r : Result) :
    (s.endCall r).latch = s.latch := rfl

@[simp] theorem State.endCall_call (s : State) (r : Result) :
    (s.endCall r).call = none := rfl

@[simp] theorem State.endCall_result (s : State) (r : Result) :
    (s.endCall r).result = some r := rfl

@[simp] theorem State.endCall_wasReset (s : State) (r : Result) :
    (s.endCall r).wasReset = s.wasReset := rfl

@[simp] theorem State.setLatch_a (s : State) (op : Byte) (opPc : Word) :
    (s.setLatch op opPc).a = s.a := rfl

@[simp] theorem State.setLatch_x (s : State) (op : Byte) (opPc : Word) :
    (s.setLatch op opPc).x = s.x := rfl

@[simp] theorem State.setLatch_y (s : State) (op : Byte) (opPc : Word) :
    (s.setLatch op opPc).y = s.y := rfl

@[simp] theorem State.setLatch_pc (s : State) (op : Byte) (opPc : Word) :
    (s.setLatch op opPc).pc = s.pc := rfl

@[simp] theorem State.setLatch_sp (s : State) (op : Byte) (opPc : Word) :
    (s.setLatch op opPc).sp = s.sp := rfl

@[simp] theorem State.setLatch_c (s : State) (op : Byte) (opPc : Word) :
    (s.setLatch op opPc).c = s.c := rfl

@[simp] theorem State.setLatch_z (s : State) (op : Byte) (opPc : Word) :
    (s.setLatch op opPc).z = s.z := rfl

@[simp] theorem State.setLatch_i (s : State) (op : Byte) (opPc : Word) :
    (s.setLatch op opPc).i = s.i := rfl

@[simp] theorem State.setLatch_d (s : State) (op : Byte) (opPc : Word) :
    (s.setLatch op opPc).d = s.d := rfl

@[simp] theorem State.setLatch_b (s : State) (op : Byte) (opPc : Word) :
    (s.setLatch op opPc).b = s.b := rfl

@[simp] theorem State.setLatch_v (s : State) (op : Byte) (opPc : Word) :
    (s.setLatch op opPc).v = s.v := rfl

@[simp] theorem State.setLatch_n (s : State) (op : Byte) (opPc : Word) :
    (s.setLatch op opPc).n = s.n := rfl

@[simp] theorem State.setLatch_mem (s : State) (op : Byte) (opPc : Word) :
    (s.setLatch op opPc).mem = s.mem := rfl

@[simp] theorem State.setLatch_latch (s : State) (op : Byte) (opPc : Word) :
    (s.setLatch op opPc).latch = some (op, opPc) := rfl

@[simp] theorem State.setLatch_call (s : State) (op : Byte) (opPc : Word) :
    (s.setLatch op opPc).call = s.call := rfl

@[simp] theorem State.setLatch_result (s : State) (op : Byte) (opPc : Word) :
    (s.setLatch op opPc).result = s.result := rfl

@[simp] theorem State.setLatch_wasReset (s : State) (op : Byte) (opPc : Word) :
    (s.setLatch op opPc).wasReset = s.wasReset := rfl

@[simp] theorem State.setZN_a (s : State) (val : Byte) :
    (s.setZN val).a = s.a := rfl

@[simp] theorem State.setZN_x (s : State) (val : Byte) :
    (s.setZN val).x = s.x := rfl

@[simp] theorem State.setZN_y (s : State) (val : Byte) :
    (s.setZN val).y = s.y := rfl

@[simp] theorem State.setZN_pc (s : State) (val : Byte) :
    (s.setZN val).pc = s.pc := rfl

@[simp] theorem State.setZN_sp (s : State) (val : Byte) :
    (s.setZN val).sp = s.sp := rfl

@[simp] theorem State.setZN_c (s : State) (val : Byte) :
    (s.setZN val).c = s.c := rfl

@[simp] theorem State.setZN_z (s : State) (val : Byte) :
    (s.setZN val).z = zeroFlag val := rfl

@[simp] theorem State.setZN_i (s : State) (val : Byte) :
    (s.setZN val).i = s.i := rfl

@[simp] theorem State.setZN_d (s : State) (val : Byte) :
    (s.setZN val).d = s.d := rfl

@[simp] theorem State.setZN_b (s : State) (val : Byte) :
    (s.setZN val).b = s.b := rfl

@[simp] theorem State.setZN_v (s : State) (val : Byte) :
    (s.setZN val).v = s.v := rfl

@[simp] theorem State.setZN_n (s : State) (val : Byte) :
    (s.setZN val).n = negativeFlag val := rfl

@[simp] theorem State.setZN_mem (s : State) (val : Byte) :
    (s.setZN val).mem = s.mem := rfl

@[simp] theorem State.setZN_latch (s : State) (val : Byte) :
    (s.setZN val).latch = s.latch := rfl

@[simp] theorem State.setZN_call (s : State) (val : Byte) :
    (s.setZN val).call = s.call := rfl

@[simp] theorem State.setZN_result (s : State) (val : Byte) :
    (s.setZN val).result = s.result := rfl

@[simp] theorem State.setZN_wasReset (s : State) (val : Byte) :
    (s.setZN val).wasReset = s.wasReset := rfl

@[simp] theorem State.writeByte_a (s : State) (addr : Word) (val : Byte) :
    (s.writeByte addr val).a = s.a := rfl

@[simp] theorem State.writeByte_x (s : State) (addr : Word) (val : Byte) :
    (s.writeByte addr val).x = s.x := rfl

@[simp] theorem State.writeByte_y (s : State) (addr : Word) (val : Byte) :
    (s.writeByte addr val).y = s.y := rfl

@[simp] theorem State.writeByte_pc (s : State) (addr : Word) (val : Byte) :
    (s.writeByte addr val).pc = s.pc := rfl

@[simp] theorem State.writeByte_sp (s : State) (addr : Word) (val : Byte) :
    (s.writeByte addr val).sp = s.sp := rfl

@[simp] theorem State.writeByte_c (s : State) (addr : Word) (val : Byte) :
    (s.writeByte addr val).c = s.c := rfl

@[simp] theorem State.writeByte_z (s : State) (addr : Word) (val : Byte) :
    (s.writeByte addr val).z = s.z := rfl

@[simp] theorem State.writeByte_i (s : State) (addr : Word) (val : Byte) :
    (s.writeByte addr val).i = s.i := rfl

@[simp] theorem State.writeByte_d (s : State) (addr : Word) (val : Byte) :
    (s.writeByte addr val).d = s.d := rfl

@[simp] theorem State.writeByte_b (s : State) (addr : Word) (val : Byte) :
    (s.writeByte addr val).b = s.b := rfl

@[simp] theorem State.writeByte_v (s : State) (addr : Word) (val : Byte) :
    (s.writeByte addr val).v = s.v := rfl

@[simp] theorem State.writeByte_n (s : State) (addr : Word) (val : Byte) :
    (s.writeByte addr val).n = s.n := rfl

@[simp] theorem State.writeByte_mem (s : State) (addr : Word) (val : Byte) :
    (s.writeByte addr val).mem = s.mem.write addr.toNat val := rfl

@[simp] theorem State.writeByte_latch (s : State) (addr : Word) (val : Byte) :
    (s.writeByte addr val).latch = s.latch := rfl

@[simp] theorem State.writeByte_call (s : State) (addr : Word) (val : Byte) :
    (s.writeByte addr val).call = s.call := rfl

@[simp] theorem State.writeByte_result (s : State) (addr : Word) (val : Byte) :
    (s.writeByte addr val).result = s.result := rfl

@[simp] theorem State.writeByte_wasReset (s : State) (addr : Word) (val : Byte) :
    (s.writeByte addr val).wasReset = s.wasReset := rfl

@[simp] theorem State.writeWord_a (s : State) (addr val : Word) :
    (s.writeWord addr val).a = s.a := rfl

@[simp] theorem State.writeWord_x (s : State) (addr val : Word) :
    (s.writeWord addr val).x = s.x := rfl

@[simp] theorem State.writeWord_y (s : State) (addr val : Word) :
    (s.writeWord addr val).y = s.y := rfl

@[simp] theorem State.writeWord_pc (s : State) (addr val : Word) :
    (s.writeWord addr val).pc = s.pc := rfl

@[simp] theorem State.writeWord_sp (s : State) (addr val : Word) :
    (s.writeWord addr val).sp = s.sp := rfl

@[simp] theorem State.writeWord_c (s : State) (addr val : Word) :
    (s.writeWord addr val).c = s.c := rfl

@[simp] theorem State.writeWord_z (s : State) (addr val : Word) :
    (s.writeWord addr val).z = s.z := rfl

@[simp] theorem State.writeWord_i (s : State) (addr val : Word) :
    (s.writeWord addr val).i = s.i := rfl

@[simp] theorem State.writeWord_d (s : State) (addr val : Word) :
    (s.writeWord addr val).d = s.d := rfl

@[simp] theorem State.writeWord_b (s : State) (addr val : Word) :
    (s.writeWord addr val).b = s.b := rfl

@[simp] theorem State.writeWord_v (s : State) (addr val : Word) :
    (s.writeWord addr val).v = s.v := rfl

@[simp] theorem State.writeWord_n (s : State) (addr val : Word) :
    (s.writeWord addr val).n = s.n := rfl

@[simp] theorem State.writeWord_mem (s : State) (addr val : Word) :
    (s.writeWord addr val).mem = (s.mem.write addr.toNat (lo8 val)).write (add16 addr 1).toNat (hi8 val) := rfl

@[simp] theorem State.writeWord_latch (s : State) (addr val : Word) :
    (s.writeWord addr val).latch = s.latch := rfl

@[simp] theorem State.writeWord_call (s : State) (addr val : Word) :
    (s.writeWord addr val).call = s.call := rfl

@[simp] theorem State.writeWord_result (s : State) (addr val : Word) :
    (s.writeWord addr val).result = s.result := rfl

@[simp] theorem State.writeWord_wasReset (s : State) (addr val : Word) :
    (s.writeWord addr val).wasReset = s.wasReset := rfl

@[simp] theorem State.setFlag_a (s : State) (f : Flag) (bit : Bool) :
    (s.setFlag f bit).a = s.a := rfl

@[simp] theorem State.setFlag_x (s : State) (f : Flag) (bit : Bool) :
    (s.setFlag f bit).x = s.x := rfl

@[simp] theorem State.setFlag_y (s : State) (f : Flag) (bit : Bool) :
    (s.setFlag f bit).y = s.y := rfl

@[simp] theorem State.setFlag_pc (s : State) (f : Flag) (bit : Bool) :
    (s.setFlag f bit).pc = s.pc := rfl

@[simp] theorem State.setFlag_sp (s : State) (f : Flag) (bit : Bool) :
    (s.setFlag f bit).sp = s.sp := rfl

@[simp] theorem State.setFlag_c (s : State) (f : Flag) (bit : Bool) :
    (s.setFlag f bit).c = if f = .c then bit else s.c := rfl

@[simp] theorem State.setFlag_z (s : State) (f : Flag) (bit : Bool) :
    (s.setFlag f bit).z = if f = .z then bit else s.z := rfl

@[simp] theorem State.setFlag_i (s : State) (f : Flag) (bit : Bool) :
    (s.setFlag f bit).i = if f = .i then bit else s.i := rfl

@[simp] theorem State.setFlag_d (s : State) (f : Flag) (bit : Bool) :
    (s.setFlag f bit).d = if f = .d then bit else s.d := rfl

@[simp] theorem State.setFlag_b (s : State) (f : Flag) (bit : Bool) :
    (s.setFlag f bit).b = if f = .b then bit else s.b := rfl

@[simp] theorem State.setFlag_v (s : State) (f : Flag) (bit : Bool) :
    (s.setFlag f bit).v = if f = .v then bit else s.v := rfl

@[simp] theorem State.setFlag_n (s : State) (f : Flag) (bit : Bool) :
    (s.setFlag f bit).n = if f = .n then bit else s.n := rfl

@[simp] theorem State.setFlag_mem (s : State) (f : Flag) (bit : Bool) :
    (s.setFlag f bit).mem = s.mem := rfl

@[simp] theorem State.setFlag_latch (s : State) (f : Flag) (bit : Bool) :
    (s.setFlag f bit).latch = s.latch := rfl

@[simp] theorem State.setFlag_call (s : State) (f : Flag) (bit : Bool) :
    (s.setFlag f bit).call = s.call := rfl

@[simp] theorem State.setFlag_result (s : State) (f : Flag) (bit : Bool) :
    (s.setFlag f bit).result = s.result := rfl

@[simp] theorem State.setFlag_wasReset (s : State) (f : Flag) (bit : Bool) :
    (s.setFlag f bit).wasReset = s.wasReset := rfl

@[simp] theorem Call.consume_budget (k : Call) (cycles : Nat) :
    (k.consume cycles).budget = k.budget := rfl

@[simp] theorem Call.consume_remaining (k : Call) (cycles : Nat) :
    (k.consume cycles).remaining = k.remaining - (cycles : Int) := rfl

theorem State.reg_setReg (s : State) (r q : Reg) (val : Byte) :
    (s.setReg r val).reg q = if q = r then val else s.reg q := by
  cases r <;> cases q <;> rfl

theorem State.flag_setFlag (s : State) (f g : Flag) (bit : Bool) :
    (s.setFlag f bit).flag g = if g = f then bit else s.flag g := by
  cases f <;> cases g <;> rfl

end Sys2Proof.Machine
end

