-- ==== Sys2Proof/Laws/Memory.lean ====
section
/-!
SUPPORT. The laws of memory: a read after a write, and that every memory operation keeps the
canonical form.
-/

namespace Sys2Proof.Machine

theorem Memory.read_write_ne (m : Memory) (a b : Nat) (val : Byte) (h : b ≠ a) :
    (m.write a val).read b = m.read b := by
  induction m with
  | nil =>
    by_cases hv : val = Config.resetByte
    · simp [Memory.write, hv]
    · simp [Memory.write, Memory.read, hv, h.symm]
  | cons cell rest ih =>
    obtain ⟨k, w⟩ := cell
    simp only [Memory.write]
    split_ifs with h1 h2 h3 h4
    · rfl
    · simp [Memory.read, h.symm]
    · simp [Memory.read, show ¬k = b by omega]
    · simp [Memory.read, h.symm, show ¬k = b by omega]
    · simp [Memory.read, ih]

/-- A canonical memory lists nothing below its lower bound. -/
theorem Memory.read_below (m : Memory) (lo a : Nat) (hm : m.wfFrom lo = true) (h : a < lo) :
    m.read a = Config.resetByte := by
  induction m generalizing lo with
  | nil => rfl
  | cons cell rest ih =>
    obtain ⟨k, w⟩ := cell
    simp only [Memory.wfFrom, Bool.and_eq_true, decide_eq_true_eq] at hm
    simp only [Memory.read, show ¬k = a by omega, if_false]
    exact ih _ hm.2 (by omega)

theorem Memory.read_write_same_from (m : Memory) (lo a : Nat) (val : Byte)
    (hm : m.wfFrom lo = true) : (m.write a val).read a = val := by
  induction m generalizing lo with
  | nil =>
    by_cases hv : val = Config.resetByte
    · simp [Memory.write, Memory.read, hv]
    · simp [Memory.write, Memory.read, hv]
  | cons cell rest ih =>
    obtain ⟨k, w⟩ := cell
    have hcell := hm
    simp only [Memory.wfFrom, Bool.and_eq_true, decide_eq_true_eq] at hm
    simp only [Memory.write]
    split_ifs with h1 h2 h3 h4
    · have hread := Memory.read_below rest (k + 1) a hm.2 (by omega)
      simp [Memory.read, show ¬k = a by omega, hread, h2]
    · simp [Memory.read]
    · have hread := Memory.read_below rest (k + 1) a hm.2 (by omega)
      simp [hread, h4]
    · simp [Memory.read]
    · simp only [Memory.read, show ¬k = a by omega, if_false]
      exact ih _ hm.2

theorem Memory.read_write_same (m : Memory) (a : Nat) (val : Byte) (hm : m.wf = true) :
    (m.write a val).read a = val :=
  Memory.read_write_same_from m 0 a val hm

theorem Memory.wfFrom_mono (m : Memory) (lo lo' : Nat) (h : lo' ≤ lo)
    (hm : m.wfFrom lo = true) : m.wfFrom lo' = true := by
  cases m with
  | nil => rfl
  | cons cell rest =>
    obtain ⟨k, w⟩ := cell
    simp only [Memory.wfFrom, Bool.and_eq_true, decide_eq_true_eq] at hm ⊢
    exact ⟨⟨⟨by omega, hm.1.1.2⟩, hm.1.2⟩, hm.2⟩

theorem Memory.wfFrom_write (m : Memory) (lo a : Nat) (val : Byte) (hlo : lo ≤ a)
    (ha : a < Config.memorySize) (hm : m.wfFrom lo = true) :
    (m.write a val).wfFrom lo = true := by
  induction m generalizing lo with
  | nil =>
    by_cases hv : val = Config.resetByte
    · simp [Memory.write, Memory.wfFrom, hv]
    · simp [Memory.write, Memory.wfFrom, hv, hlo, ha]
  | cons cell rest ih =>
    obtain ⟨k, w⟩ := cell
    have hcell := hm
    simp only [Memory.wfFrom, Bool.and_eq_true, decide_eq_true_eq] at hm
    obtain ⟨⟨⟨hk, hsize⟩, hw⟩, hrest⟩ := hm
    simp only [Memory.write]
    split_ifs with h1 h2 h3 h4
    · exact hcell
    · simp only [Memory.wfFrom, Bool.and_eq_true, decide_eq_true_eq]
      exact ⟨⟨⟨hlo, ha⟩, h2⟩, ⟨⟨by omega, hsize⟩, hw⟩, hrest⟩
    · exact Memory.wfFrom_mono rest (k + 1) lo (by omega) hrest
    · simp only [Memory.wfFrom, Bool.and_eq_true, decide_eq_true_eq]
      subst h3
      exact ⟨⟨⟨hlo, ha⟩, h4⟩, hrest⟩
    · simp only [Memory.wfFrom, Bool.and_eq_true, decide_eq_true_eq]
      exact ⟨⟨⟨hk, hsize⟩, hw⟩, ih _ (by omega) hrest⟩

theorem Memory.wf_write (m : Memory) (addr : Word) (val : Byte) (hm : m.wf = true) :
    (m.write addr.toNat val).wf = true :=
  Memory.wfFrom_write m 0 addr.toNat val (Nat.zero_le _) addr.isLt hm

theorem State.reset_mem_wf : State.reset.mem.wf = true := rfl

theorem State.wf_writeByte (s : State) (addr : Word) (val : Byte) (hm : s.mem.wf = true) :
    (s.writeByte addr val).mem.wf = true :=
  Memory.wf_write s.mem addr val hm

theorem State.wf_writeWord (s : State) (addr val : Word) (hm : s.mem.wf = true) :
    (s.writeWord addr val).mem.wf = true :=
  State.wf_writeByte _ _ _ (State.wf_writeByte s addr _ hm)

theorem State.wf_writeBytes (s : State) (addr : Word) (bytes : List Byte)
    (hm : s.mem.wf = true) : (s.writeBytes addr bytes).mem.wf = true := by
  induction bytes generalizing s addr with
  | nil => exact hm
  | cons val rest ih => exact ih _ _ (State.wf_writeByte s addr val hm)

theorem State.readByte_writeByte (s : State) (addr a : Word) (val : Byte)
    (hm : s.mem.wf = true) :
    (s.writeByte addr val).readByte a = if a = addr then val else s.readByte a := by
  split_ifs with h
  · subst h
    exact Memory.read_write_same s.mem _ val hm
  · exact Memory.read_write_ne s.mem _ _ val fun hn => h (BitVec.eq_of_toNat_eq hn)

theorem State.readByte_writeByte_ne (s : State) (addr a : Word) (val : Byte) (h : a ≠ addr) :
    (s.writeByte addr val).readByte a = s.readByte a :=
  Memory.read_write_ne s.mem _ _ val fun hn => h (BitVec.eq_of_toNat_eq hn)

theorem add16_one_ne (addr : Word) : add16 addr 1 ≠ addr := by
  intro h
  have h1 : (add16 addr 1).toNat = addr.toNat := by rw [h]
  have := addr.isLt
  simp only [add16, BitVec.toNat_add] at h1
  change (addr.toNat + 1) % 2 ^ 16 = addr.toNat at h1
  omega

theorem State.readByte_writeWord (s : State) (addr val a : Word) (hm : s.mem.wf = true) :
    (s.writeWord addr val).readByte a =
      if a = addr then lo8 val else if a = add16 addr 1 then hi8 val else s.readByte a := by
  have hm1 := State.wf_writeByte s addr (lo8 val) hm
  rw [State.writeWord, State.readByte_writeByte _ _ _ _ hm1, State.readByte_writeByte _ _ _ _ hm]
  by_cases h1 : a = addr
  · subst h1
    rw [if_neg (add16_one_ne a).symm]
    simp
  · simp [h1]

theorem State.readByte_writeWord_ne (s : State) (addr val a : Word) (h : a ≠ addr)
    (h1 : a ≠ add16 addr 1) : (s.writeWord addr val).readByte a = s.readByte a := by
  rw [State.writeWord, State.readByte_writeByte_ne _ _ _ _ h1, State.readByte_writeByte_ne _ _ _ _ h]

/-- Reads depend on memory alone. -/
theorem State.readByte_congr (s t : State) (h : t.mem = s.mem) (addr : Word) :
    t.readByte addr = s.readByte addr := by
  simp [State.readByte, h]

end Sys2Proof.Machine
end

