-- ==== Sys2Proof/Laws/Commands.lean ====
section
/-!
SUPPORT. What the host's reads and writes can do, said once.
-/

namespace Sys2Proof.Machine

theorem hostRead_ready {α : Type} (item : State → α) (s : State) (h : s.Ready) :
    hostRead item s = .ok (item s) := by
  simp [hostRead, hostReadBar, h.1, h.2]

theorem hostWrite_idle (w : HostWrite) (s : State) (h : s.call = none) :
    hostWrite w s = .next (w.apply s) := by
  simp [hostWrite, h]

/-- No host write touches the engine's own state (R162). -/
theorem HostWrite.apply_engine (w : HostWrite) (s : State) :
    (w.apply s).latch = s.latch ∧ (w.apply s).call = s.call ∧
    (w.apply s).result = s.result ∧ (w.apply s).wasReset = s.wasReset := by
  cases w <;> exact ⟨rfl, rfl, rfl, rfl⟩

end Sys2Proof.Machine
end

