-- ==== Sys2Proof/Laws/Decode.lean ====
section
/-!
SUPPORT. The opcode table as a table: no two rows overlap, and what one row makes the decoder do.
-/

namespace Sys2Proof

theorem opcodeTable_opcodes_nodup : (opcodeTable.map Prod.fst).Nodup := by decide

theorem opcodeEntry_mem (op : Byte) (field : OperandField) (h : opcodeEntry op = some field) :
    (op, field) ∈ opcodeTable := by
  unfold opcodeEntry at h
  generalize opcodeTable = table at h ⊢
  induction table with
  | nil => simp at h
  | cons row rest ih =>
    obtain ⟨k, f⟩ := row
    rw [List.lookup_cons] at h
    split at h
    · next heq =>
      have : op = k := by simpa using heq
      simp_all
    · exact List.mem_cons_of_mem _ (ih h)

theorem decode_cons (op : Byte) (rest : List Byte) :
    decode (op :: rest) =
      match opcodeEntry op with
      | some field => decodeOperand field rest
      | none => .rejected (.unsupportedOpcode op) := rfl

theorem decode_unsupported (op : Byte) (rest : List Byte) (h : opcodeEntry op = none) :
    decode (op :: rest) = .rejected (.unsupportedOpcode op) := by
  rw [decode_cons, h]

/-- Two bytes after a supported opcode are always enough. -/
theorem decodeOperand_two (field : OperandField) (b1 b2 : Byte) (rest : List Byte) :
    ∃ i tail, decodeOperand field (b1 :: b2 :: rest) = .instr i tail := by
  cases field <;> exact ⟨_, _, rfl⟩

/-- On three bytes the decoder rejects exactly the opcodes the table has no row for. -/
theorem decode_three_rejected (op b1 b2 : Byte) (r : DecodeReject)
    (h : decode [op, b1, b2] = .rejected r) : opcodeEntry op = none := by
  rw [decode_cons] at h
  cases hop : opcodeEntry op with
  | none => rfl
  | some field =>
    obtain ⟨i, tail, hi⟩ := decodeOperand_two field b1 b2 []
    rw [hop] at h
    simp only at h
    rw [hi] at h
    cases h

end Sys2Proof
end

