-- ==== Sys2Proof/Laws/Instructions.lean ====
section
/-!
SUPPORT. What exec can do, said once: every instruction is a load, ORA or JSR (`exec_cases`), and
everything each shared operation does.
-/

namespace Sys2Proof.Machine

/-- Everything a next state of exec can be. -/
theorem exec_cases (i : Instr) (s t : State) (h : exec i s = .next t) :
    (∃ r o, loadForm i = some (r, o) ∧ t = s.load r o) ∨
    (∃ imm, i = .oraImm imm ∧ t = s.orA (.imm imm)) ∨
    (∃ target, i = .jsrAbs target ∧ t = s.jsr target) := by
  cases i
  case oraImm imm => exact .inr (.inl ⟨imm, rfl, by cases h; rfl⟩)
  case jsrAbs target => exact .inr (.inr ⟨target, rfl, by cases h; rfl⟩)
  all_goals exact .inl ⟨_, _, rfl, by cases h; rfl⟩

theorem exec_load (i : Instr) (r : Reg) (o : Operand) (h : loadForm i = some (r, o))
    (s : State) : exec i s = .next (s.load r o) := by
  cases i <;> cases h <;> rfl

theorem exec_oraImm (imm : Byte) (s : State) :
    exec (.oraImm imm) s = .next (s.orA (.imm imm)) := rfl

theorem exec_jsrAbs (target : Word) (s : State) :
    exec (.jsrAbs target) s = .next (s.jsr target) := rfl

/-- No instruction raises anything (R160). -/
theorem exec_next (i : Instr) (s : State) : ∃ t, exec i s = .next t := by
  cases i <;> exact ⟨_, rfl⟩

theorem loadForm_length (i : Instr) (r : Reg) (o : Operand) (h : loadForm i = some (r, o)) :
    o.length = i.length := by
  cases i <;> cases h <;> rfl

theorem pageCross_cycle (base : Word) (index : Byte) :
    (if pageCross base index then 1 else 0) = crossCycle base index := by
  by_cases h : 0xFF < (lo8 base).toNat + index.toNat <;> simp [pageCross, crossCycle, h]

theorem loadForm_cycles (i : Instr) (r : Reg) (o : Operand) (h : loadForm i = some (r, o))
    (s : State) : o.cycles s = instrCycles s i := by
  cases i <;> cases h <;> first
    | rfl
    | exact congrArg (modeCycles _ + ·) (pageCross_cycle _ _)

theorem crossCycle_le (base : Word) (index : Byte) : crossCycle base index ≤ 1 := by
  unfold crossCycle
  split <;> omega

/-- The bounds of the cycles column of R63. -/
theorem instrCycles_bounds (s : State) (i : Instr) :
    2 ≤ instrCycles s i ∧ instrCycles s i ≤ 6 := by
  cases i <;> simp only [instrCycles] <;>
    first
    | omega
    | exact ⟨by omega, by have := crossCycle_le ‹Word› s.x; omega⟩
    | exact ⟨by omega, by have := crossCycle_le ‹Word› s.y; omega⟩
    | exact ⟨by omega, by
        have := crossCycle_le (s.readWord (zext16 ‹Byte›)) s.y
        omega⟩

theorem State.load_spec (s : State) (r : Reg) (o : Operand) :
    WritesRegister s (s.load r o) r (o.value s) o.length (o.cycles s) := by
  refine ⟨?_, fun q hq => ?_, rfl, rfl, rfl, rfl, fun _ => rfl,
    ⟨rfl, rfl, rfl, rfl, rfl, rfl, rfl, rfl⟩, rfl⟩
  · exact (State.reg_setReg s r r (o.value s)).trans (if_pos rfl)
  · exact (State.reg_setReg s r q (o.value s)).trans (if_neg hq)

theorem State.orA_spec (s : State) (o : Operand) :
    WritesRegister s (s.orA o) .a (s.a ||| o.value s) o.length (o.cycles s) := by
  refine ⟨?_, fun q hq => ?_, rfl, rfl, rfl, rfl, fun _ => rfl,
    ⟨rfl, rfl, rfl, rfl, rfl, rfl, rfl, rfl⟩, rfl⟩
  · exact (State.reg_setReg s .a .a (s.a ||| o.value s)).trans (if_pos rfl)
  · exact (State.reg_setReg s .a q (s.a ||| o.value s)).trans (if_neg hq)

theorem State.jsrReturn_eq (s : State) : s.jsrReturn = add16 s.pc 2 := by
  simp only [State.jsrReturn, sub16, add16]
  bv_omega

/-- The fields of the state after JSR; its memory is the word write's. -/
theorem State.jsr_spec (s : State) (target : Word) :
    (s.jsr target).pc = target ∧ (s.jsr target).sp = add16 s.sp jsrSpStep ∧
    (∀ r, (s.jsr target).reg r = s.reg r) ∧ (s.jsr target).z = s.z ∧ (s.jsr target).n = s.n ∧
    (s.jsr target).mem = (s.writeWord (stackAddr s.sp) s.jsrReturn).mem ∧
    Untouched s (s.jsr target) ∧ Consumed s (s.jsr target) jsrCycles :=
  ⟨rfl, rfl, fun r => by cases r <;> rfl, rfl, rfl, rfl,
    ⟨rfl, rfl, rfl, rfl, rfl, rfl, rfl, rfl⟩, rfl⟩

theorem exec_untouched (i : Instr) (s t : State) (h : exec i s = .next t) : Untouched s t := by
  obtain ⟨r, o, -, rfl⟩ | ⟨imm, -, rfl⟩ | ⟨target, -, rfl⟩ := exec_cases i s t h
  · exact (State.load_spec s r o).2.2.2.2.2.2.2.1
  · exact (State.orA_spec s (.imm imm)).2.2.2.2.2.2.2.1
  · exact (State.jsr_spec s target).2.2.2.2.2.2.1

theorem exec_wf (i : Instr) (s t : State) (h : exec i s = .next t) (hm : s.mem.wf = true) :
    t.mem.wf = true := by
  obtain ⟨r, o, -, rfl⟩ | ⟨imm, -, rfl⟩ | ⟨target, -, rfl⟩ := exec_cases i s t h
  · exact hm
  · exact hm
  · exact State.wf_writeWord s _ _ hm

/-- An engine field an instruction only passes through: with another call, latch and result it does
the same to the rest. -/
theorem exec_engine_fields (i : Instr) (s t : State) (call : Option Call)
    (latch : Option (Byte × Word)) (result : Option Result) (wasReset : Bool)
    (h : exec i s = .next t) :
    exec i { s with call := call, latch := latch, result := result, wasReset := wasReset } =
      .next { t with
        call := call.map fun k => k.consume (instrCycles s i)
        latch := latch
        result := result
        wasReset := wasReset } := by
  obtain ⟨r, o, hf, rfl⟩ | ⟨imm, rfl, rfl⟩ | ⟨target, rfl, rfl⟩ := exec_cases i s t h
  · rw [exec_load i r o hf, ← loadForm_cycles i r o hf]
    cases o <;> rfl
  · rfl
  · rfl

end Sys2Proof.Machine
end

