-- ==== Sys2Proof/Laws/Engine.lean ====
section
/-!
SUPPORT. What a turn, a step and an Execute can do, said once.
-/

namespace Sys2Proof.Machine

/-- Everything a turn can do: run the decoded instruction, take the unsupported-opcode condition, or
return. -/
theorem turn_cases (k : Call) (s t : State) (h : turn k s = .next t) :
    (0 < k.remaining ∧ ∃ i rest, decode s.fetchBytes = .instr i rest ∧ exec i s = .next t) ∨
    (0 < k.remaining ∧ opcodeEntry (s.readByte s.pc) = none ∧ t = s.takeUnsupported k) ∨
    (k.remaining ≤ 0 ∧ t = s.returnOk k) := by
  unfold turn at h
  split at h
  · next hk =>
    cases hd : decode s.fetchBytes with
    | instr i rest =>
      rw [hd] at h
      exact .inl ⟨hk, i, rest, rfl, h⟩
    | rejected r =>
      rw [hd] at h
      cases h
      exact .inr (.inl ⟨hk, decode_three_rejected _ _ _ r hd, rfl⟩)
  · next hk =>
    cases h
    exact .inr (.inr ⟨by omega, rfl⟩)

/-- The bytes at PC hold an instruction, or the byte at PC is an unsupported opcode. -/
theorem fetch_cases (s : State) :
    (∃ i rest, decode s.fetchBytes = .instr i rest) ∨ opcodeEntry (s.readByte s.pc) = none := by
  cases h : decode s.fetchBytes with
  | instr i rest => exact .inl ⟨i, rest, rfl⟩
  | rejected r => exact .inr (decode_three_rejected _ _ _ r h)

theorem turn_instr (k : Call) (s : State) (i : Instr) (rest : List Byte) (hk : 0 < k.remaining)
    (hd : decode s.fetchBytes = .instr i rest) : turn k s = exec i s := by
  simp [turn, hk, hd]

theorem turn_unsupported (k : Call) (s : State) (hk : 0 < k.remaining)
    (hd : opcodeEntry (s.readByte s.pc) = none) : turn k s = .next (s.takeUnsupported k) := by
  simp [turn, hk, State.fetchBytes, decode_unsupported _ _ hd]

theorem turn_return (k : Call) (s : State) (hk : k.remaining ≤ 0) :
    turn k s = .next (s.returnOk k) := by
  simp [turn, show ¬0 < k.remaining by omega]

theorem turn_next (k : Call) (s : State) : ∃ t, turn k s = .next t := by
  unfold turn
  split
  · cases decode s.fetchBytes with
    | instr i rest => exact exec_next i s
    | rejected r => exact ⟨_, rfl⟩
  · exact ⟨_, rfl⟩

theorem runCall_idle (fuel : Nat) (s : State) (h : s.call = none) :
    runCall fuel s = .next s := by
  cases fuel with
  | zero => rfl
  | succ fuel => simp [runCall, h]

theorem runCall_turn (fuel : Nat) (k : Call) (s t : State) (hc : s.call = some k)
    (ht : turn k s = .next t) : runCall (fuel + 1) s = runCall fuel t := by
  simp [runCall, hc, ht]

/-- Everything an Execute that is not refused can do. -/
theorem execute_cases (budget : Nat) (s t : State) (h : execute budget s = .next t) :
    s.wasReset = true ∧ s.call = none ∧
    ((budget = 0 ∧ t = s.endCall (.ok 0)) ∨
     (0 < budget ∧ ∃ op opPc, s.latch = some (op, opPc) ∧
        t = s.endCall (.unsupported op opPc 0)) ∨
     (0 < budget ∧ s.latch = none ∧ runCall (budget + 1) (s.beginCall budget) = .next t)) := by
  unfold execute at h
  split_ifs at h with h1 h2 h3
  · refine ⟨by simpa using h1, by simpa using h2, .inl ⟨h3, ?_⟩⟩
    cases h
    rfl
  · refine ⟨by simpa using h1, by simpa using h2, .inr ?_⟩
    cases hl : s.latch with
    | none =>
      rw [hl] at h
      exact .inr ⟨by omega, rfl, h⟩
    | some p =>
      rw [hl] at h
      cases h
      exact .inl ⟨by omega, p.1, p.2, rfl, rfl⟩

theorem step_inCall (s : State) (k : Call) (h : s.InCall k) : step s = turn k s := by
  simp [step, engineStep, h.1, h.2]

theorem step_idle (s : State) (h : s.Ready) : step s = execute 1 s := by
  simp [step, engineStep, h.1, h.2]

theorem execute_ready (budget : Nat) (s : State) (hb : 0 < budget) (h : s.Ready)
    (hl : s.latch = none) : execute budget s = runCall (budget + 1) (s.beginCall budget) := by
  simp [execute, h.1, h.2, hl, show budget ≠ 0 by omega]

theorem core_run_succ (M : Host.Core) (k : Nat) (s t : M.State) (h : M.step s = .next t) :
    M.run (k + 1) s = M.run k t := by
  simp [Host.Core.run, h]

/-- The instructions of a run leave what each of them leaves. -/
theorem runInstrs_cons (i : Instr) (is : List Instr) (s u : State)
    (h : runInstrs (i :: is) s = some u) :
    ∃ rest t, decode s.fetchBytes = .instr i rest ∧ exec i s = .next t ∧
      runInstrs is t = some u := by
  obtain ⟨t, ht⟩ := exec_next i s
  cases hd : decode s.fetchBytes with
  | rejected r => simp [runInstrs, hd] at h
  | instr j rest =>
    simp only [runInstrs, hd, ht] at h
    split_ifs at h with hji
    subst hji
    exact ⟨rest, t, rfl, ht, h⟩

theorem opcodeTable_supported : opcodeTable.map Prod.fst = supportedOpcodes := rfl

theorem not_supported_iff (op : Byte) : op ∉ supportedOpcodes ↔ opcodeEntry op = none := by
  rw [opcodeEntry, List.lookup_eq_none_iff, ← opcodeTable_supported, List.mem_map]
  constructor
  · intro h row hrow
    simpa using fun heq => h ⟨row, hrow, heq.symm⟩
  · rintro h ⟨row, hrow, rfl⟩
    simpa using h row hrow

end Sys2Proof.Machine
end

