-- ==== Sys2Proof/Laws/PerInstr.lean ====
section
/-!
SUPPORT. The per-instruction family EncodingShape: the syntax and the encoding of each constructor.
-/

namespace Sys2Proof.Laws.EncodingShape

/-- The instruction is well formed, its encoding has its length, and begins with a supported opcode
byte (R60, R61, R63). -/
def Statement (i : Instr) : Prop :=
  i.wellFormed = true ∧ (encode i).length = i.length ∧
    ∃ op tail, encode i = op :: tail ∧ op ∈ Machine.supportedOpcodes

theorem byte_fits (m : Mode) (h : m.operandBytes = 1) (b : Byte) :
    operandFits m b.toNat = true := by
  rw [operandFits, h]
  exact decide_eq_true b.isLt

theorem word_fits (m : Mode) (h : m.operandBytes = 2) (w : Word) :
    operandFits m w.toNat = true := by
  rw [operandFits, h]
  exact decide_eq_true w.isLt

theorem ldaImm (imm : Byte) : Statement (.ldaImm imm) :=
  ⟨byte_fits _ rfl imm, rfl, _, _, rfl, by decide⟩

theorem ldaZp (zp : Byte) : Statement (.ldaZp zp) :=
  ⟨byte_fits _ rfl zp, rfl, _, _, rfl, by decide⟩

theorem ldaZpX (zp : Byte) : Statement (.ldaZpX zp) :=
  ⟨byte_fits _ rfl zp, rfl, _, _, rfl, by decide⟩

theorem ldaAbs (addr : Word) : Statement (.ldaAbs addr) :=
  ⟨word_fits _ rfl addr, rfl, _, _, rfl, by decide⟩

theorem ldaAbsX (addr : Word) : Statement (.ldaAbsX addr) :=
  ⟨word_fits _ rfl addr, rfl, _, _, rfl, by decide⟩

theorem ldaAbsY (addr : Word) : Statement (.ldaAbsY addr) :=
  ⟨word_fits _ rfl addr, rfl, _, _, rfl, by decide⟩

theorem ldaIndX (zp : Byte) : Statement (.ldaIndX zp) :=
  ⟨byte_fits _ rfl zp, rfl, _, _, rfl, by decide⟩

theorem ldaIndY (zp : Byte) : Statement (.ldaIndY zp) :=
  ⟨byte_fits _ rfl zp, rfl, _, _, rfl, by decide⟩

theorem ldxImm (imm : Byte) : Statement (.ldxImm imm) :=
  ⟨byte_fits _ rfl imm, rfl, _, _, rfl, by decide⟩

theorem ldxZp (zp : Byte) : Statement (.ldxZp zp) :=
  ⟨byte_fits _ rfl zp, rfl, _, _, rfl, by decide⟩

theorem ldxZpY (zp : Byte) : Statement (.ldxZpY zp) :=
  ⟨byte_fits _ rfl zp, rfl, _, _, rfl, by decide⟩

theorem ldxAbs (addr : Word) : Statement (.ldxAbs addr) :=
  ⟨word_fits _ rfl addr, rfl, _, _, rfl, by decide⟩

theorem ldxAbsY (addr : Word) : Statement (.ldxAbsY addr) :=
  ⟨word_fits _ rfl addr, rfl, _, _, rfl, by decide⟩

theorem ldyImm (imm : Byte) : Statement (.ldyImm imm) :=
  ⟨byte_fits _ rfl imm, rfl, _, _, rfl, by decide⟩

theorem ldyZp (zp : Byte) : Statement (.ldyZp zp) :=
  ⟨byte_fits _ rfl zp, rfl, _, _, rfl, by decide⟩

theorem ldyZpX (zp : Byte) : Statement (.ldyZpX zp) :=
  ⟨byte_fits _ rfl zp, rfl, _, _, rfl, by decide⟩

theorem ldyAbs (addr : Word) : Statement (.ldyAbs addr) :=
  ⟨word_fits _ rfl addr, rfl, _, _, rfl, by decide⟩

theorem ldyAbsX (addr : Word) : Statement (.ldyAbsX addr) :=
  ⟨word_fits _ rfl addr, rfl, _, _, rfl, by decide⟩

theorem oraImm (imm : Byte) : Statement (.oraImm imm) :=
  ⟨byte_fits _ rfl imm, rfl, _, _, rfl, by decide⟩

theorem jsrAbs (addr : Word) : Statement (.jsrAbs addr) :=
  ⟨word_fits _ rfl addr, rfl, _, _, rfl, by decide⟩

end Sys2Proof.Laws.EncodingShape
end

