-- ==== Sys2Proof/Tests/Slice0.lean ====
section
/-!
SUPPORT. The model's own tests: the WellFormed smoke, decoding against words written out from
30_encoding.md, one step or call per instruction with the results of 95_test_vectors.md, and a
witness for the hypotheses of every statement that has some.
-/

namespace Sys2Proof.Tests

open Sys2Proof.Machine

/-- After Reset, code at 0xFFFC and data bytes, as the host installs them (95_test_vectors.md). -/
def loaded (code : List Byte) (data : List (Word × Byte)) : State :=
  writeAll (State.reset.writeBytes 0xFFFC code) data

/-- What a vector's end state lists. -/
structure Seen where
  a : Byte
  x : Byte
  y : Byte
  pc : Word
  sp : Word
  z : Bool
  n : Bool
  result : Option Result
  deriving DecidableEq, Repr

def seen : Host.Outcome State Fault Refusal → Option Seen
  | .next s => some ⟨s.a, s.x, s.y, s.pc, s.sp, s.z, s.n, s.result⟩
  | .fault _ => none
  | .refused _ => none

/-- A byte of the next state. -/
def byteAfter (addr : Word) : Host.Outcome State Fault Refusal → Option Byte
  | .next s => some (s.readByte addr)
  | .fault _ => none
  | .refused _ => none

/-- The latch of the next state. -/
def latchAfter : Host.Outcome State Fault Refusal → Option (Byte × Word)
  | .next s => s.latch
  | .fault _ => none
  | .refused _ => none

/-! WellFormed: an ill-formed triple for each check -/

theorem test_wf_lda_has_no_zeroPageY : wellFormed .lda .zeroPageY 0x10 = false := by decide
theorem test_wf_ldx_is_not_indexed_by_x : wellFormed .ldx .zeroPageX 0x10 = false := by decide
theorem test_wf_ldy_is_not_indexed_by_y : wellFormed .ldy .absoluteY 0x10 = false := by decide
theorem test_wf_ora_is_immediate_only : wellFormed .ora .zeroPage 0x10 = false := by decide
theorem test_wf_jsr_is_absolute_only : wellFormed .jsr .indirectIndexedY 0x10 = false := by decide
theorem test_wf_imm8_is_a_byte : wellFormed .lda .immediate 256 = false := by decide
theorem test_wf_abs16_is_a_word : wellFormed .jsr .absolute 65536 = false := by decide
theorem test_wf_largest_operands :
    wellFormed .lda .immediate 255 = true ∧ wellFormed .jsr .absolute 65535 = true := by decide

/-! Decoding: the bytes of 30_encoding.md R61 and R63, written out bit by bit. Each also meets the
fetch hypothesis of its addressing-mode statement. -/

theorem test_decode_ldaImm :
    decode (loaded [0b10101001, 0b10000100] []).fetchBytes = .instr (.ldaImm 0x84) [0x00] := by decide

theorem test_decode_ldaZp :
    decode (loaded [0b10100101, 0b10000100] []).fetchBytes = .instr (.ldaZp 0x84) [0x00] := by decide

theorem test_decode_ldaZpX :
    decode (loaded [0b10110101, 0b10000100] []).fetchBytes = .instr (.ldaZpX 0x84) [0x00] := by decide

theorem test_decode_ldaAbs :
    decode (loaded [0b10101101, 0b00000010, 0b01000100] []).fetchBytes = .instr (.ldaAbs 0x4402) [] := by
  decide

theorem test_decode_ldaAbsX :
    decode (loaded [0b10111101, 0b00000010, 0b01000100] []).fetchBytes = .instr (.ldaAbsX 0x4402) [] := by
  decide

theorem test_decode_ldaAbsY :
    decode (loaded [0b10111001, 0b00000010, 0b01000100] []).fetchBytes = .instr (.ldaAbsY 0x4402) [] := by
  decide

theorem test_decode_ldaIndX :
    decode (loaded [0b10100001, 0b10000100] []).fetchBytes = .instr (.ldaIndX 0x84) [0x00] := by decide

theorem test_decode_ldaIndY :
    decode (loaded [0b10110001, 0b10000100] []).fetchBytes = .instr (.ldaIndY 0x84) [0x00] := by decide

theorem test_decode_ldxImm :
    decode (loaded [0b10100010, 0b10000100] []).fetchBytes = .instr (.ldxImm 0x84) [0x00] := by decide

theorem test_decode_ldxZp :
    decode (loaded [0b10100110, 0b10000100] []).fetchBytes = .instr (.ldxZp 0x84) [0x00] := by decide

theorem test_decode_ldxZpY :
    decode (loaded [0b10110110, 0b10000100] []).fetchBytes = .instr (.ldxZpY 0x84) [0x00] := by decide

theorem test_decode_ldxAbs :
    decode (loaded [0b10101110, 0b00000010, 0b01000100] []).fetchBytes = .instr (.ldxAbs 0x4402) [] := by
  decide

theorem test_decode_ldxAbsY :
    decode (loaded [0b10111110, 0b00000010, 0b01000100] []).fetchBytes = .instr (.ldxAbsY 0x4402) [] := by
  decide

theorem test_decode_ldyImm :
    decode (loaded [0b10100000, 0b10000100] []).fetchBytes = .instr (.ldyImm 0x84) [0x00] := by decide

theorem test_decode_ldyZp :
    decode (loaded [0b10100100, 0b10000100] []).fetchBytes = .instr (.ldyZp 0x84) [0x00] := by decide

theorem test_decode_ldyZpX :
    decode (loaded [0b10110100, 0b10000100] []).fetchBytes = .instr (.ldyZpX 0x84) [0x00] := by decide

theorem test_decode_ldyAbs :
    decode (loaded [0b10101100, 0b00000010, 0b01000100] []).fetchBytes = .instr (.ldyAbs 0x4402) [] := by
  decide

theorem test_decode_ldyAbsX :
    decode (loaded [0b10111100, 0b00000010, 0b01000100] []).fetchBytes = .instr (.ldyAbsX 0x4402) [] := by
  decide

theorem test_decode_oraImm :
    decode (loaded [0b00001001, 0b10000100] []).fetchBytes = .instr (.oraImm 0x84) [0x00] := by decide

theorem test_decode_jsrAbs :
    decode (loaded [0b00100000, 0b00000010, 0b01000100] []).fetchBytes = .instr (.jsrAbs 0x4402) [] := by
  decide

/-- The decoder vectors of 95_test_vectors.md section 2. -/
theorem test_decode_unsupported :
    [0x00, 0x01, 0x05, 0x0D, 0x60, 0xA3, 0xA7, 0xAF, 0xB2, 0xB3, 0xB7, 0xBB, 0xBF, 0xEA, 0xFF].all
      (fun op : Byte => decide (decode [op, 0, 0] = .rejected (.unsupportedOpcode op))) = true := by
  decide

/-- R61: bit 0 of a table word is bit 0 of the opcode; the bytes above `nbits` are 0. -/
theorem test_table_word :
    decodeTableWord 8 0xA9 = some (.ldaImm 0x00) ∧
    decodeTableWord 16 0x84A9 = some (.ldaImm 0x84) ∧
    decodeTableWord 24 0x4402BD = some (.ldaAbsX 0x4402) ∧
    decodeTableWord 8 0x4402BD = some (.ldaAbsX 0x0000) ∧ decodeTableWord 8 0x00 = none := by
  decide

theorem test_step_runs_a_table_word :
    seen (step (State.reset.withFetchWord 16 0x84A9)) =
      some ⟨0x84, 0, 0, 0xFFFE, 0x00FF, false, true, none⟩ := by decide

/-! One Execute per vector of 95_test_vectors.md (the vector's id is the theorem's name) -/

theorem test_LDA_1 :
    seen (execute 2 (loaded [0xA9, 0x00] [])) =
      some ⟨0x00, 0x00, 0x00, 0xFFFE, 0x00FF, true, false, some (.ok 2)⟩ := by decide

theorem test_LDA_3 :
    seen (execute 3 (loaded [0xA5, 0xFF] [(0x00FF, 0x80)])) =
      some ⟨0x80, 0x00, 0x00, 0xFFFE, 0x00FF, false, true, some (.ok 3)⟩ := by decide

theorem test_LDA_4 :
    seen (execute 4 { loaded [0xB5, 0x80] [(0x007F, 0x37)] with x := 0xFF }) =
      some ⟨0x37, 0xFF, 0x00, 0xFFFE, 0x00FF, false, false, some (.ok 4)⟩ := by decide

theorem test_LDA_5 :
    seen (execute 4 { loaded [0xB5, 0xFF] [(0x0000, 0x05)] with x := 0x01 }) =
      some ⟨0x05, 0x01, 0x00, 0xFFFE, 0x00FF, false, false, some (.ok 4)⟩ := by decide

theorem test_LDA_6 :
    seen (execute 4 (loaded [0xAD, 0x02, 0x44] [(0x4402, 0xFF)])) =
      some ⟨0xFF, 0x00, 0x00, 0xFFFF, 0x00FF, false, true, some (.ok 4)⟩ := by decide

theorem test_LDA_7 :
    seen (execute 4 { loaded [0xBD, 0x00, 0x44] [(0x44FF, 0x01)] with x := 0xFF }) =
      some ⟨0x01, 0xFF, 0x00, 0xFFFF, 0x00FF, false, false, some (.ok 4)⟩ := by decide

theorem test_LDA_9 :
    seen (execute 5 { loaded [0xBD, 0xFF, 0xFF] [(0x0000, 0x03)] with x := 0x01 }) =
      some ⟨0x03, 0x01, 0x00, 0xFFFF, 0x00FF, false, false, some (.ok 5)⟩ := by decide

theorem test_LDA_10 :
    seen (execute 5 { loaded [0xB9, 0x80, 0x44] [(0x4500, 0x80)] with y := 0x80 }) =
      some ⟨0x80, 0x00, 0x80, 0xFFFF, 0x00FF, false, true, some (.ok 5)⟩ := by decide

theorem test_LDA_11 :
    seen (execute 4 { loaded [0xB9, 0xFF, 0x44] [(0x44FF, 0x00)] with y := 0x00 }) =
      some ⟨0x00, 0x00, 0x00, 0xFFFF, 0x00FF, true, false, some (.ok 4)⟩ := by decide

theorem test_LDA_13 :
    seen (execute 6 { loaded [0xA1, 0xF0] [(0x0010, 0x34), (0x0011, 0x12), (0x1234, 0x99)] with x := 0x20 }) =
      some ⟨0x99, 0x20, 0x00, 0xFFFE, 0x00FF, false, true, some (.ok 6)⟩ := by decide

theorem test_LDA_14 :
    seen (execute 6 { loaded [0xA1, 0xFF] [(0x00FF, 0x00), (0x0100, 0x30), (0x0000, 0x40), (0x3000, 0x55), (0x4000, 0x66)] with x := 0x00 }) =
      some ⟨0x55, 0x00, 0x00, 0xFFFE, 0x00FF, false, false, some (.ok 6)⟩ := by decide

theorem test_LDA_15 :
    seen (execute 6 { loaded [0xB1, 0x10] [(0x0010, 0xFF), (0x0011, 0x80), (0x8100, 0x81)] with y := 0x01 }) =
      some ⟨0x81, 0x00, 0x01, 0xFFFE, 0x00FF, false, true, some (.ok 6)⟩ := by decide

theorem test_LDA_16 :
    seen (execute 5 { loaded [0xB1, 0xFF] [(0x00FF, 0x00), (0x0100, 0x20), (0x2000, 0x01)] with y := 0x00 }) =
      some ⟨0x01, 0x00, 0x00, 0xFFFE, 0x00FF, false, false, some (.ok 5)⟩ := by decide

theorem test_LDX_1 :
    seen (execute 2 (loaded [0xA2, 0xFF] [])) =
      some ⟨0x00, 0xFF, 0x00, 0xFFFE, 0x00FF, false, true, some (.ok 2)⟩ := by decide

theorem test_LDX_2 :
    seen (execute 3 (loaded [0xA6, 0x10] [(0x0010, 0x00)])) =
      some ⟨0x00, 0x00, 0x00, 0xFFFE, 0x00FF, true, false, some (.ok 3)⟩ := by decide

theorem test_LDX_3 :
    seen (execute 4 { loaded [0xB6, 0x80] [(0x007F, 0x42)] with y := 0xFF }) =
      some ⟨0x00, 0x42, 0xFF, 0xFFFE, 0x00FF, false, false, some (.ok 4)⟩ := by decide

theorem test_LDX_4 :
    seen (execute 4 { loaded [0xB6, 0x80] [(0x0080, 0x01), (0x0090, 0x02)] with x := 0x10, y := 0x00 }) =
      some ⟨0x00, 0x01, 0x00, 0xFFFE, 0x00FF, false, false, some (.ok 4)⟩ := by decide

theorem test_LDX_5 :
    seen (execute 4 (loaded [0xAE, 0x34, 0x12] [(0x1234, 0x7F)])) =
      some ⟨0x00, 0x7F, 0x00, 0xFFFF, 0x00FF, false, false, some (.ok 4)⟩ := by decide

theorem test_LDX_6 :
    seen (execute 5 { loaded [0xBE, 0x02, 0x44] [(0x4501, 0x37)] with y := 0xFF }) =
      some ⟨0x00, 0x37, 0xFF, 0xFFFF, 0x00FF, false, false, some (.ok 5)⟩ := by decide

theorem test_LDY_1 :
    seen (execute 2 (loaded [0xA0, 0x00] [])) =
      some ⟨0x00, 0x00, 0x00, 0xFFFE, 0x00FF, true, false, some (.ok 2)⟩ := by decide

theorem test_LDY_2 :
    seen (execute 3 (loaded [0xA4, 0xFF] [(0x00FF, 0x37)])) =
      some ⟨0x00, 0x00, 0x37, 0xFFFE, 0x00FF, false, false, some (.ok 3)⟩ := by decide

theorem test_LDY_3 :
    seen (execute 4 { loaded [0xB4, 0x80] [(0x007F, 0x90)] with x := 0xFF }) =
      some ⟨0x00, 0xFF, 0x90, 0xFFFE, 0x00FF, false, true, some (.ok 4)⟩ := by decide

theorem test_LDY_4 :
    seen (execute 4 (loaded [0xAC, 0x02, 0x44] [(0x4402, 0x37)])) =
      some ⟨0x00, 0x00, 0x37, 0xFFFF, 0x00FF, false, false, some (.ok 4)⟩ := by decide

theorem test_LDY_5 :
    seen (execute 4 { loaded [0xBC, 0x02, 0x44] [(0x4403, 0x37)] with x := 0x01 }) =
      some ⟨0x00, 0x01, 0x37, 0xFFFF, 0x00FF, false, false, some (.ok 4)⟩ := by decide

theorem test_LDY_6 :
    seen (execute 5 { loaded [0xBC, 0x02, 0x44] [(0x4501, 0x80)] with x := 0xFF }) =
      some ⟨0x00, 0xFF, 0x80, 0xFFFF, 0x00FF, false, true, some (.ok 5)⟩ := by decide

theorem test_ORA_3 :
    seen (execute 2 { loaded [0x09, 0x00] [] with a := 0x81 }) =
      some ⟨0x81, 0x00, 0x00, 0xFFFE, 0x00FF, false, true, some (.ok 2)⟩ := by decide

theorem test_ORA_4 :
    seen (execute 2 { loaded [0x09, 0xAA] [] with a := 0x55, z := true }) =
      some ⟨0xFF, 0x00, 0x00, 0xFFFE, 0x00FF, false, true, some (.ok 2)⟩ := by decide

theorem test_ENG_1 :
    seen (execute 0 (loaded [0xA9, 0x01] [])) =
      some ⟨0x00, 0x00, 0x00, 0xFFFC, 0x00FF, false, false, some (.ok 0)⟩ := by decide

theorem test_ENG_2 :
    seen (execute 1 (loaded [0xA9, 0x01] [])) =
      some ⟨0x01, 0x00, 0x00, 0xFFFE, 0x00FF, false, false, some (.ok 2)⟩ := by decide

theorem test_ENG_3 :
    seen (execute 3 (loaded [0xA9, 0x01, 0xA9, 0x02] [])) =
      some ⟨0x02, 0x00, 0x00, 0x0000, 0x00FF, false, false, some (.ok 4)⟩ := by decide

theorem test_ENG_4 :
    seen (execute 2 (loaded [0xA9, 0x01, 0xA9, 0x02] [])) =
      some ⟨0x01, 0x00, 0x00, 0xFFFE, 0x00FF, false, false, some (.ok 2)⟩ := by decide

theorem test_ENG_5 :
    seen (execute 7 (loaded [] [])) =
      some ⟨0x00, 0x00, 0x00, 0xFFFD, 0x00FF, false, false, some (.unsupported 0x00 0xFFFC 1)⟩ := by decide

theorem test_ENG_6 :
    seen (execute 9 (loaded [0xA9, 0x01, 0xFF] [])) =
      some ⟨0x01, 0x00, 0x00, 0xFFFF, 0x00FF, false, false, some (.unsupported 0xFF 0xFFFE 3)⟩ := by decide

theorem test_ENG_7 :
    seen (execute 1 (loaded [0xA1, 0x00] [])) =
      some ⟨0x00, 0x00, 0x00, 0xFFFE, 0x00FF, true, false, some (.ok 6)⟩ := by decide

/-- LDA-17: C, I, D, B and V stay. -/
theorem test_LDA_17 :
    (match step { loaded [0xA9, 0x80] [] with c := true, v := true, i := true, d := true, b := true } with
      | .next t => t.c && t.i && t.d && t.b && t.v && t.n && !t.z
      | .fault _ => false
      | .refused _ => false) = true := by decide

/-- JSR-2: SP and the push wrap: [FFFF]=FE, [0000]=FF. -/
theorem test_JSR_2 :
    seen (step { loaded [0x20, 0x00, 0x30] [] with sp := 0xFFFF }) =
      some ⟨0x00, 0x00, 0x00, 0x3000, 0x0000, false, false, some (.ok 6)⟩ ∧
    byteAfter 0xFFFF (step { loaded [0x20, 0x00, 0x30] [] with sp := 0xFFFF }) = some 0xFE ∧
    byteAfter 0x0000 (step { loaded [0x20, 0x00, 0x30] [] with sp := 0xFFFF }) = some 0xFF := by
  decide

/-- JSR-5: target bytes at 0xFFFF and 0x0000, 0x0000 pushed. -/
theorem test_JSR_5 :
    (seen (step { loaded [0x00, 0x00, 0x20, 0x34, 0x12] [] with pc := 0xFFFE })).map
        (fun t => (t.pc, t.sp)) = some (0x1234, 0x0100) ∧
    byteAfter 0x00FF (step { loaded [0x00, 0x00, 0x20, 0x34, 0x12] [(0x00FF, 0x55)] with
      pc := 0xFFFE }) = some 0x00 := by decide

/-- ENG-5 and ENG-6: the latch. -/
theorem test_ENG_latch :
    latchAfter (step State.reset) = some (0x00, 0xFFFC) ∧
    latchAfter (execute 9 (loaded [0xA9, 0x01, 0xFF] [])) = some (0xFF, 0xFFFE) := by decide

/-- Program P4's first call: the JSR's push overwrites the code at its target. -/
theorem test_P4_first_call :
    seen (execute 8 { loaded [0x20, 0x00, 0x80] [(0x8000, 0xA9), (0x8001, 0x11), (0x8002, 0x22)] with
      sp := 0x8001 }) =
      some ⟨0xFE, 0, 0, 0x8002, 0x8002, false, true, some (.ok 8)⟩ := by decide

/-- Memory stays canonical: a zero written over a listed byte removes the entry. -/
theorem test_memory_canonical :
    (writeAll State.reset [(0x0010, 0x05), (0x0008, 0x01), (0x0010, 0x00)]).mem = [(8, 0x01)] := by
  decide

/-! Witnesses: a state and operands meeting the hypotheses of each statement that has some, and one
for each clause -/

/-- Inside a call of budget 2 with `remaining` cycles left. -/
def inCall (remaining : Int) (code : List Byte) : State :=
  { loaded code [] with call := some { budget := 2, remaining := remaining } }

theorem witness_DecodedBytesAreTheEncoding :
    decode [0x20, 0xFF, 0xFF, 0x09] = .instr (.jsrAbs 0xFFFF) [0x09] := by decide

theorem witness_OpcodeByteDecidesFormAndLength :
    decode (loaded [0xA9, 0x84] []).fetchBytes = .instr (.ldaImm 0x84) [0x00] ∧
    (encode (.ldaImm 0x84))[1]? = some 0x84 ∧
    decode [0xA9, 0x84] = .instr (.ldaImm 0x84) [] ∧
    decode [0xA9, 0x00, 0x01] = .instr (.ldaImm 0x00) [0x01] := by decide

theorem witness_ExactlyTwentyOpcodesAreSupported :
    (0x20 : Byte) ∈ supportedOpcodes ∧ (0x00 : Byte) ∉ supportedOpcodes ∧
    (0xFF : Byte) ∉ supportedOpcodes := by decide

theorem witness_ReadReturnsTheLastWrite : (loaded [0xA9] [(0xFFFF, 0x01)]).mem.wf = true := by
  decide

theorem witness_WordAccessIsLittleEndian :
    (loaded [0xA9] []).mem.wf = true ∧
    (0x0001 : Word) ≠ 0xFFFF ∧ (0x0001 : Word) ≠ add16 0xFFFF 1 := by decide

theorem witness_EveryLoadWritesItsRegisterAndNothingElse :
    loadForm (.ldaIndY 0xFF) = some (.a, .indY 0xFF) ∧
    loadForm (.ldxAbsY 0xFFFF) = some (.x, .absY 0xFFFF) ∧
    loadForm (.ldyImm 0x00) = some (.y, .imm 0x00) := by decide

theorem witness_LoadsIgnoreTheOldValueOfTheirRegister :
    loadForm (.ldxZpY 0xFF) = some (.x, .zpY 0xFF) := by decide

theorem witness_JsrJumpsAndMovesTheStackPointer :
    decode (loaded [0x20, 0x34, 0x12] []).fetchBytes = .instr (.jsrAbs 0x1234) [] ∧
    (0x0001 : Word) ≠ stackAddr 0xFFFF ∧ (0x0001 : Word) ≠ add16 (stackAddr 0xFFFF) 1 := by decide

theorem witness_JsrPushIsReadBackAndFetched :
    ({ loaded [0x20, 0x00, 0x00] [] with sp := 0xFFFF } : State).mem.wf = true := by decide

theorem witness_PcFollowsLengthOrJsrTarget :
    (∃ t, exec (.ldaAbs 0xFFFF) State.reset = .next t) ∧
    (Instr.ldaAbs 0xFFFF).operation ≠ .jsr ∧
    ∃ t, exec (.jsrAbs 0xFFFF) State.reset = .next t :=
  ⟨⟨_, rfl⟩, by decide, ⟨_, rfl⟩⟩

theorem witness_ZeroAndNegativeFollowTheWrittenRegister :
    (∃ t, exec (.oraImm 0x80) State.reset = .next t) ∧ destination (.oraImm 0x80) = some .a ∧
    (∃ t, exec (.jsrAbs 0x0000) State.reset = .next t) ∧ destination (.jsrAbs 0x0000) = none :=
  ⟨⟨_, rfl⟩, by decide, ⟨_, rfl⟩, by decide⟩

theorem witness_OtherFlagsAreStorageOnly :
    (∃ t, exec (.ldyImm 0xFF) State.reset = .next t) ∧
    (∃ t, execute 1 State.reset = .next t) ∧ (∃ t, resetCommand State.reset = .next t) ∧
    State.reset.call = none :=
  ⟨⟨_, rfl⟩, ⟨_, rfl⟩, ⟨_, rfl⟩, rfl⟩

theorem witness_AccumulatorIsReadByOraAlone :
    (∃ t, exec (.ldaZp 0xFF) State.reset = .next t) ∧ (Instr.ldaZp 0xFF).operation = .lda ∧
    (∃ t, exec (.oraImm 0xFF) State.reset = .next t) ∧
    (∃ t, exec (.ldxZp 0xFF) State.reset = .next t) ∧
    (Instr.ldxZp 0xFF).operation ≠ .lda ∧ (Instr.ldxZp 0xFF).operation ≠ .ora :=
  ⟨⟨_, rfl⟩, rfl, ⟨_, rfl⟩, ⟨_, rfl⟩, by decide, by decide⟩

theorem witness_StackPointerIsUsedByJsrAlone :
    (∃ t, exec (.ldaImm 0x00) State.reset = .next t) ∧ (Instr.ldaImm 0x00).operation ≠ .jsr ∧
    (∃ t, exec (.jsrAbs 0x0000) State.reset = .next t) ∧
    (Instr.jsrAbs 0x0000).operation = .jsr :=
  ⟨⟨_, rfl⟩, by decide, ⟨_, rfl⟩, rfl⟩

theorem witness_InstructionsConsumeTheirTableCycles :
    (inCall 1 [0xA9, 0x01]).call = some { budget := 2, remaining := 1 } := by decide

theorem witness_StepRunsTheDecodedInstruction :
    decode (inCall 1 [0xA9, 0x01]).fetchBytes = .instr (.ldaImm 0x01) [0x00] ∧
    (inCall 1 [0xA9, 0x01]).InCall { budget := 2, remaining := 1 } ∧
    decode (loaded [0xA9, 0x01] []).fetchBytes = .instr (.ldaImm 0x01) [0x00] ∧
    (loaded [0xA9, 0x01] []).Ready ∧ (loaded [0xA9, 0x01] []).latch = none := by decide

theorem witness_ExhaustedCallReturnsWhatItConsumed :
    (inCall 0 [0xA9]).InCall { budget := 2, remaining := 0 } ∧
    (inCall (-5) [0xA9]).InCall { budget := 2, remaining := -5 } := by decide

theorem witness_UnsupportedOpcodeSetsTheLatchAndReturns :
    (inCall 1 [0xFF]).readByte (inCall 1 [0xFF]).pc ∉ supportedOpcodes ∧
    (inCall 1 [0xFF]).InCall { budget := 2, remaining := 1 } ∧
    State.reset.readByte State.reset.pc ∉ supportedOpcodes ∧
    State.reset.Ready ∧ State.reset.latch = none := by decide

theorem witness_LatchStopsEveryExecuteUntilReset :
    ({ State.reset with latch := some (0x00, 0xFFFC) } : State).Ready ∧
    ({ State.reset with latch := some (0x00, 0xFFFC) } : State).latch = some (0x00, 0xFFFC) ∧
    0 < 1 := by decide

theorem witness_ExecuteZeroDoesNothing :
    State.reset.Ready ∧ ({ State.reset with latch := some (0x00, 0xFFFC) } : State).Ready := by
  decide

theorem witness_ExecuteIsStepsUntilTheCallReturns :
    0 < 1 ∧ (loaded [0xA9, 0x01] []).Ready ∧ (loaded [0xA9, 0x01] []).latch = none := by decide

theorem witness_OkResultOverrunsByAtMostFive :
    0 < 1 ∧ (seen (execute 1 (loaded [0xA1, 0x00] []))).map Seen.result = some (some (.ok 6)) := by
  decide

theorem witness_OkResultIsTheSumOfTheInstructionsRun :
    (loaded [0xA9, 0x01, 0xA9, 0x02] []).Ready ∧
    (loaded [0xA9, 0x01, 0xA9, 0x02] []).latch = none ∧
    (seen (execute 3 (loaded [0xA9, 0x01, 0xA9, 0x02] []))).map Seen.result =
      some (some (.ok 4)) := by decide

theorem witness_ErrorResultCountsTheInstructionsBeforeIt :
    (loaded [0xA9, 0x01, 0xFF] []).Ready ∧ (loaded [0xA9, 0x01, 0xFF] []).latch = none ∧
    (seen (execute 3 (loaded [0xA9, 0x01, 0xFF] []))).map Seen.result =
      some (some (.unsupported 0xFF 0xFFFE 3)) := by decide

theorem witness_SufficientBudgetRunsExactlyOneInstruction :
    (loaded [0x20, 0x00, 0x30] []).Ready ∧ (loaded [0x20, 0x00, 0x30] []).latch = none ∧
    decode (loaded [0x20, 0x00, 0x30] []).fetchBytes = .instr (.jsrAbs 0x3000) [] ∧
    1 ≤ 6 ∧ 6 ≤ instrCycles (loaded [0x20, 0x00, 0x30] []) (.jsrAbs 0x3000) := by decide

/-- Both calls of the statement, the second from the state the first left. -/
theorem witness_TwoCallsAreOneCallOfTheirTotal :
    (loaded [0xA9, 0x01, 0xA9, 0x02] []).Ready ∧
    (match execute 1 (loaded [0xA9, 0x01, 0xA9, 0x02] []) with
      | .next t => decide (t.result = some (.ok 2)) &&
          decide ((seen (execute 2 t)).map Seen.result = some (some (.ok 2)))
      | .fault _ => false
      | .refused _ => false) = true := by decide

theorem witness_StepNeverStopsAfterReset : State.reset.wasReset = true := by decide

theorem witness_StepKeepsTheInvariant :
    (inCall 1 [0x20, 0x00, 0x30]).Inv ∧ ∃ t, step (inCall 1 [0x20, 0x00, 0x30]) = .next t :=
  ⟨by decide, ⟨_, rfl⟩⟩

theorem witness_CommandsKeepTheInvariant :
    State.reset.Inv ∧ (∃ t, command .reset State.reset = .next t) ∧
    (∃ t, command (.execute 1) State.reset = .next t) ∧
    ∃ t, command (.write (.byte 0xFFFF 0x00)) State.reset = .next t :=
  ⟨by decide, ⟨_, rfl⟩, ⟨_, rfl⟩, ⟨_, rfl⟩⟩

theorem witness_ResetLeavesTheTableValues :
    ({ State.reset with wasReset := false } : State).call = none ∧ State.reset.call = none := by
  decide

theorem witness_EmptyMemoryAfterResetIsUnsupported : 0 < 1 := by decide

theorem witness_BeforeTheFirstResetIsRefused :
    ({ State.reset with wasReset := false } : State).wasReset = false := by decide

theorem witness_CommandsDuringACallAreRefused :
    (inCall 1 [0xA9, 0x01]).InCall { budget := 2, remaining := 1 } := by decide

theorem witness_HostWritesChangeExactlyTheirItem :
    State.reset.Ready ∧ State.reset.mem.wf = true ∧
    (loaded [0xA9] [(0xFFFF, 0x01)]).Ready ∧ (loaded [0xA9] [(0xFFFF, 0x01)]).mem.wf = true ∧
    ({ State.reset with latch := some (0x00, 0xFFFC) } : State).Ready := by decide

end Sys2Proof.Tests
end

section
/-!
PROOFS. The registers and flags of 10_state.md (R21, R29 to R31): what an operand is resolved from,
the flags that are storage only, and the three statements about them.
-/

namespace Sys2Proof.Machine

/-! What a load reads -/

/-- The operand value is resolved from X, Y and memory alone (R100). -/
theorem Operand.value_congr (o : Operand) {s s' : State} (hx : s'.x = s.x) (hy : s'.y = s.y)
    (hm : s'.mem = s.mem) : o.value s' = o.value s := by
  cases o <;>
    simp only [Operand.value, State.readPointer, State.readWord, State.readByte, hx, hy, hm]

/-- So are the cycles of the access (R110, R111). -/
theorem Operand.cycles_congr (o : Operand) {s s' : State} (hx : s'.x = s.x) (hy : s'.y = s.y)
    (hm : s'.mem = s.mem) : o.cycles s' = o.cycles s := by
  have hcrosses : o.crosses s' = o.crosses s := by
    cases o <;>
      simp only [Operand.crosses, State.readPointer, State.readWord, State.readByte, hx, hy, hm]
  rw [Operand.cycles, Operand.cycles, hcrosses]

/-- A load from a state that agrees with `s` on X, Y and memory is `s`'s operand written to it. -/
theorem State.load_congr (r : Reg) (o : Operand) {s s' : State} (hx : s'.x = s.x)
    (hy : s'.y = s.y) (hm : s'.mem = s.mem) :
    s'.load r o =
      (((s'.setReg r (o.value s)).setZN (o.value s)).advancePc o.length).consume (o.cycles s) := by
  rw [State.load, o.value_congr hx hy hm, o.cycles_congr hx hy hm]

/-- Z and N are overwritten, so their old values are lost. -/
theorem State.load_set_zn (s : State) (r : Reg) (o : Operand) (zb nb : Bool) :
    ({ s with z := zb, n := nb } : State).load r o = s.load r o :=
  State.load_congr r o rfl rfl rfl

theorem State.load_set_storageFlags (s : State) (r : Reg) (o : Operand) (cb ib db bb vb : Bool) :
    ({ s with c := cb, i := ib, d := db, b := bb, v := vb } : State).load r o =
      { s.load r o with c := cb, i := ib, d := db, b := bb, v := vb } :=
  State.load_congr r o rfl rfl rfl

theorem State.load_a_set_a (s : State) (o : Operand) (old : Byte) :
    ({ s with a := old } : State).load .a o = s.load .a o :=
  State.load_congr .a o rfl rfl rfl

theorem State.load_set_a (s : State) {r : Reg} (hr : r ≠ .a) (o : Operand) (old : Byte) :
    ({ s with a := old } : State).load r o = { s.load r o with a := old } := by
  cases r with
  | a => exact absurd rfl hr
  | x => exact State.load_congr .x o rfl rfl rfl
  | y => exact State.load_congr .y o rfl rfl rfl

theorem State.load_keeps_a (s : State) {r : Reg} (hr : r ≠ .a) (o : Operand) :
    (s.load r o).a = s.a := by
  simp [State.load, hr]

/-! The row of a load -/

theorem loadForm_destination {i : Instr} {r : Reg} {o : Operand}
    (h : loadForm i = some (r, o)) : destination i = some r := by
  cases i <;> cases h <;> rfl

theorem loadForm_lda_iff {i : Instr} {r : Reg} {o : Operand} (h : loadForm i = some (r, o)) :
    i.operation = .lda ↔ r = .a := by
  cases i <;> cases h <;> simp [Instr.operation]

/-- No load is an ORA. -/
theorem loadForm_ne_oraImm {i : Instr} {r : Reg} {o : Operand} (h : loadForm i = some (r, o))
    (imm : Byte) : i ≠ .oraImm imm := by
  rintro rfl
  cases h

/-- R29, R30, from the register itself rather than the value written to it. -/
theorem WritesRegister.zn {s t : State} {r : Reg} {val : Byte} {len cycles : Nat}
    (h : WritesRegister s t r val len cycles) :
    t.z = decide (t.reg r = 0x00) ∧ t.n = (t.reg r).getLsbD 7 := by
  obtain ⟨hreg, -, hz, hn, -⟩ := h
  rw [hreg]
  exact ⟨hz, hn⟩

/-! The flags that are storage only (R31) -/

/-- C, I, D, B and V are the same in both states. -/
def SameStorageFlags (s t : State) : Prop :=
  t.c = s.c ∧ t.i = s.i ∧ t.d = s.d ∧ t.b = s.b ∧ t.v = s.v

theorem SameStorageFlags.refl (s : State) : SameStorageFlags s s := ⟨rfl, rfl, rfl, rfl, rfl⟩

theorem SameStorageFlags.trans {s t u : State} (h : SameStorageFlags s t)
    (h' : SameStorageFlags t u) : SameStorageFlags s u := by
  obtain ⟨hc, hi, hd, hb, hv⟩ := h
  obtain ⟨hc', hi', hd', hb', hv'⟩ := h'
  exact ⟨hc'.trans hc, hi'.trans hi, hd'.trans hd, hb'.trans hb, hv'.trans hv⟩

theorem Untouched.sameStorageFlags {s t : State} (h : Untouched s t) : SameStorageFlags s t := by
  obtain ⟨hc, hi, hd, hb, hv, -⟩ := h
  exact ⟨hc, hi, hd, hb, hv⟩

theorem exec_set_storageFlags {i : Instr} {s t : State} (h : exec i s = .next t)
    (cb ib db bb vb : Bool) :
    exec i { s with c := cb, i := ib, d := db, b := bb, v := vb } =
      .next { t with c := cb, i := ib, d := db, b := bb, v := vb } := by
  obtain ⟨r, o, hf, rfl⟩ | ⟨imm, rfl, rfl⟩ | ⟨target, rfl, rfl⟩ := exec_cases i s t h
  · rw [exec_load i r o hf, State.load_set_storageFlags]
  · rfl
  · rfl

/-- A reflexive and transitive relation that every turn respects holds across the whole loop of
R80. -/
theorem runCall_rel (R : State → State → Prop) (hrefl : ∀ s, R s s)
    (htrans : ∀ s t u, R s t → R t u → R s u)
    (hturn : ∀ k s t, s.call = some k → turn k s = .next t → R s t)
    (fuel : Nat) (s t : State) (h : runCall fuel s = .next t) : R s t := by
  induction fuel generalizing s with
  | zero =>
    cases h
    exact hrefl _
  | succ fuel ih =>
    cases hc : s.call with
    | none =>
      rw [runCall_idle _ s hc] at h
      cases h
      exact hrefl _
    | some k =>
      obtain ⟨u, hu⟩ := turn_next k s
      rw [runCall_turn fuel k s u hc hu] at h
      exact htrans s u t (hturn k s u hc hu) (ih u h)

theorem turn_sameStorageFlags {k : Call} {s t : State} (h : turn k s = .next t) :
    SameStorageFlags s t := by
  obtain ⟨-, i, rest, -, he⟩ | ⟨-, -, rfl⟩ | ⟨-, rfl⟩ := turn_cases k s t h
  · exact (exec_untouched i s t he).sameStorageFlags
  · exact ⟨rfl, rfl, rfl, rfl, rfl⟩
  · exact ⟨rfl, rfl, rfl, rfl, rfl⟩

theorem execute_sameStorageFlags {budget : Nat} {s t : State} (h : execute budget s = .next t) :
    SameStorageFlags s t := by
  obtain ⟨-, -, ⟨-, rfl⟩ | ⟨-, op, opPc, -, rfl⟩ | ⟨-, -, hrun⟩⟩ := execute_cases budget s t h
  · exact ⟨rfl, rfl, rfl, rfl, rfl⟩
  · exact ⟨rfl, rfl, rfl, rfl, rfl⟩
  · exact runCall_rel SameStorageFlags SameStorageFlags.refl (fun _ _ _ => .trans)
      (fun _ _ _ _ => turn_sameStorageFlags) (budget + 1) (s.beginCall budget) t hrun

/-- A Reset that is not refused leaves the reset state (R180). -/
theorem resetCommand_next {s t : State} (h : resetCommand s = .next t) : t = State.reset := by
  unfold resetCommand at h
  split at h
  · cases h
  · cases h
    rfl

/-! The statements -/

/-- Settles O25: loads and ORA meet `WritesRegister`, which ties Z and N to the register; they
overwrite both flags, and JSR passes both through. -/
theorem zeroAndNegativeFollowTheWrittenRegister :
    Obligations.ZeroAndNegativeFollowTheWrittenRegister := by
  intro i s t h
  obtain ⟨r, o, hf, rfl⟩ | ⟨imm, rfl, rfl⟩ | ⟨target, rfl, rfl⟩ := exec_cases i s t h
  case inl =>
    rw [loadForm_destination hf]
    refine ⟨?_, nofun⟩
    rintro _ ⟨⟩
    obtain ⟨hz, hn⟩ := (State.load_spec s r o).zn
    exact ⟨hz, hn, fun zb nb => by rw [exec_load i r o hf, State.load_set_zn]⟩
  case inr.inl =>
    refine ⟨?_, nofun⟩
    rintro _ ⟨⟩
    obtain ⟨hz, hn⟩ := (State.orA_spec s (.imm imm)).zn
    exact ⟨hz, hn, fun zb nb => rfl⟩
  case inr.inr => exact ⟨nofun, fun _ => ⟨rfl, rfl, fun zb nb => rfl⟩⟩

/-- Settles O26: the instructions by `exec_untouched`, Execute by induction over its loop. -/
theorem otherFlagsAreStorageOnly : Obligations.OtherFlagsAreStorageOnly := by
  refine ⟨fun i s t cb ib db bb vb h => ?_, fun budget s t => execute_sameStorageFlags,
    fun s t h => ?_, fun f bit s hidle => ?_⟩
  · obtain ⟨hc, hi, hd, hb, hv⟩ := (exec_untouched i s t h).sameStorageFlags
    exact ⟨hc, hi, hd, hb, hv, exec_set_storageFlags h cb ib db bb vb⟩
  · rw [resetCommand_next h]
    exact ⟨rfl, rfl, rfl, rfl, rfl⟩
  · exact ⟨s.setFlag f bit, hostWrite_idle (.flag f bit) s hidle,
      (State.flag_setFlag s f f bit).trans (if_pos rfl)⟩

/-- Settles O27: LDA is the load to A, which overwrites it, and the other loads and JSR pass A
through, since no operand is resolved from it. -/
theorem accumulatorIsReadByOraAlone : Obligations.AccumulatorIsReadByOraAlone := by
  intro i s t old h
  obtain ⟨r, o, hf, rfl⟩ | ⟨imm, rfl, rfl⟩ | ⟨target, rfl, rfl⟩ := exec_cases i s t h
  case inl =>
    rw [exec_load i r o hf, Ne, loadForm_lda_iff hf]
    refine ⟨?_, fun imm hi => absurd hi (loadForm_ne_oraImm hf imm), fun hr _ => ?_⟩
    · rintro rfl
      rw [State.load_a_set_a]
    · exact ⟨State.load_keeps_a s hr o, congrArg _ (State.load_set_a s hr o old)⟩
  case inr.inl =>
    refine ⟨nofun, ?_, fun _ hora => absurd rfl hora⟩
    rintro _ ⟨⟩
    rfl
  case inr.inr => exact ⟨nofun, nofun, fun _ _ => ⟨rfl, rfl⟩⟩

end Sys2Proof.Machine
end

section
/-!
PROOFS. The memory of 20_memory.md (R42, R46): what a list of byte writes leaves in every byte and
outside memory, and the statement about it.
-/

namespace Sys2Proof.Machine

/-- A later write to the byte wins; where there is none, the first write decides. -/
theorem lastWrite_cons_getD (addr : Word) (w : Word × Byte) (rest : List (Word × Byte))
    (old : Byte) :
    (lastWrite addr (w :: rest)).getD old =
      (lastWrite addr rest).getD (if addr = w.1 then w.2 else old) := by
  cases hlast : lastWrite addr rest with
  | some val => simp [lastWrite, hlast]
  | none =>
    rw [lastWrite, hlast, Option.getD_none, apply_ite (Option.getD · old)]
    simp [eq_comm]

/-- `State.readByte_writeByte` over a list of writes. -/
theorem State.readByte_writeAll (s : State) (writes : List (Word × Byte)) (addr : Word)
    (hm : s.mem.wf = true) :
    (writeAll s writes).readByte addr = (lastWrite addr writes).getD (s.readByte addr) := by
  induction writes generalizing s with
  | nil => rfl
  | cons w rest ih =>
    rw [writeAll, ih _ (s.wf_writeByte w.1 w.2 hm), s.readByte_writeByte w.1 addr w.2 hm,
      lastWrite_cons_getD]

/-- The frame of a list of writes: once memory is replaced, nothing of them is left. -/
theorem writeAll_set_mem (s : State) (writes : List (Word × Byte)) (m : Memory) :
    ({ writeAll s writes with mem := m } : State) = { s with mem := m } := by
  induction writes generalizing s with
  | nil => rfl
  | cons w rest ih => exact ih (s.writeByte w.1 w.2)

/-- Reset lists no byte of memory, so each reads as an unlisted one does (R36, R180). -/
@[simp] theorem State.reset_readByte (addr : Word) : State.reset.readByte addr = 0x00 := rfl

/-- Settles O7: induction on the writes, each read back by `State.readByte_writeByte` from the
canonical memory the writes before it keep. -/
theorem readReturnsTheLastWrite : Obligations.ReadReturnsTheLastWrite :=
  ⟨fun s writes addr hm => ⟨s.readByte_writeAll writes addr hm, writeAll_set_mem s writes s.mem⟩,
    State.reset_readByte⟩

end Sys2Proof.Machine
end

section
/-!
PROOFS. The encoding of 30_encoding.md (R60 to R64): the opcode table and the encoder agree row by
row, so decoded bytes are the encoding of what they decode to; the form an opcode byte stands for;
and the statement about both.
-/

namespace Sys2Proof

/-! Decoded bytes are the encoding -/

/-- The encoder writes every instruction of the row as `op` and the row's operand bytes. -/
def OperandField.EncodedBy (op : Byte) : OperandField → Prop
  | .byte mk => ∀ b, encode (mk b) = encodeByte op b
  | .word mk => ∀ w, encode (mk w) = encodeWord op w

/-- R61, R63: the decoder's table and the encoder's rows are the same rows. -/
theorem opcodeTable_encodedBy : ∀ row ∈ opcodeTable, row.2.EncodedBy row.1 := by
  simp [opcodeTable, OperandField.EncodedBy, encode]

/-- The operand bytes a row decodes are those it encodes (R62, for `abs16` the low byte first). -/
theorem decodeOperand_eq_encode_append {op : Byte} {field : OperandField} {bytes rest : List Byte}
    {i : Instr} (hrow : field.EncodedBy op) (h : decodeOperand field bytes = .instr i rest) :
    op :: bytes = encode i ++ rest := by
  match field, bytes with
  | .byte mk, b :: tail =>
    cases h
    rw [hrow b]
    rfl
  | .word mk, lo :: hi :: tail =>
    cases h
    rw [hrow (mkWord hi lo)]
    simp [encodeWord]
  | .byte _, [] | .word _, [] | .word _, [_] => cases h

theorem decode_eq_encode_append {bytes rest : List Byte} {i : Instr}
    (h : decode bytes = .instr i rest) : bytes = encode i ++ rest := by
  cases bytes with
  | nil => cases h
  | cons op tail =>
    rw [decode_cons] at h
    cases hentry : opcodeEntry op with
    | none => simp [hentry] at h
    | some field =>
      rw [hentry] at h
      have hrow := opcodeTable_encodedBy _ (opcodeEntry_mem op field hentry)
      exact decodeOperand_eq_encode_append hrow h

/-! Lengths (R60, R61) -/

@[simp] theorem length_encode (i : Instr) : (encode i).length = i.length := by
  cases i <;> rfl

theorem Instr.length_eq_two_or_three (i : Instr) : i.length = 2 ∨ i.length = 3 := by
  unfold Instr.length
  cases i.mode <;> decide

/-! The form an opcode byte stands for (R60) -/

/-- Operation and mode of a row, those of its instruction with operand 0. -/
def OperandField.form : OperandField → Operation × Mode
  | .byte mk => ((mk 0).operation, (mk 0).mode)
  | .word mk => ((mk 0).operation, (mk 0).mode)

/-- Every instruction begins with an opcode byte whose row has its operation and mode, whatever its
operand. -/
theorem encode_opcode_form (i : Instr) :
    ∃ op tail, encode i = op :: tail ∧
      (opcodeEntry op).map OperandField.form = some (i.operation, i.mode) := by
  cases i <;> exact ⟨_, _, rfl, rfl⟩

theorem decode_opcode_form {op : Byte} {bytes rest : List Byte} {i : Instr}
    (h : decode (op :: bytes) = .instr i rest) :
    (opcodeEntry op).map OperandField.form = some (i.operation, i.mode) := by
  obtain ⟨op', tail, hencode, hform⟩ := encode_opcode_form i
  have hbytes := decode_eq_encode_append h
  rw [hencode, List.cons_append] at hbytes
  obtain ⟨rfl, -⟩ := List.cons.inj hbytes
  exact hform

/-- R60: the bytes after the opcode have no part in operation, mode and length. -/
theorem decode_same_opcode {op : Byte} {bytes bytes' rest rest' : List Byte} {i i' : Instr}
    (h : decode (op :: bytes) = .instr i rest) (h' : decode (op :: bytes') = .instr i' rest') :
    i.operation = i'.operation ∧ i.mode = i'.mode ∧ i.length = i'.length := by
  have hforms : some (i.operation, i.mode) = some (i'.operation, i'.mode) :=
    (decode_opcode_form h).symm.trans (decode_opcode_form h')
  obtain ⟨hoperation, hmode⟩ := Prod.mk.inj (Option.some.inj hforms)
  exact ⟨hoperation, hmode, by rw [Instr.length, hmode, ← Instr.length]⟩

end Sys2Proof

namespace Sys2Proof.Machine

/-! Where the bytes stand (R60, R41) -/

theorem State.readByte_of_fetchBytes_getElem? {s : State} {j : Nat} {b : Byte}
    (h : s.fetchBytes[j]? = some b) : s.readByte (add16 s.pc (BitVec.ofNat 16 j)) = b := by
  match j with
  | 0 => simpa [State.fetchBytes] using h
  | 1 | 2 => exact Option.some.inj h
  | _ + 3 => cases h

/-- The instruction at PC stands in memory as its encoding, from PC on and modulo 2^16. -/
theorem State.readByte_of_decode_fetchBytes {s : State} {i : Instr} {rest : List Byte}
    (h : decode s.fetchBytes = .instr i rest) {j : Nat} {b : Byte} (hj : (encode i)[j]? = some b) :
    s.readByte (add16 s.pc (BitVec.ofNat 16 j)) = b := by
  apply State.readByte_of_fetchBytes_getElem?
  obtain ⟨hlt, -⟩ := List.getElem?_eq_some_iff.mp hj
  rw [decode_eq_encode_append h, List.getElem?_append_left hlt, hj]

/-- Settles O4: the three clauses are the encoding's place in memory, the form of an opcode byte's
row, and the operand bytes of each mode. -/
theorem opcodeByteDecidesFormAndLength : Obligations.OpcodeByteDecidesFormAndLength :=
  ⟨fun _ i _ h => ⟨length_encode i, fun _ _ hj => State.readByte_of_decode_fetchBytes h hj⟩,
    fun _ _ _ _ _ _ _ h h' => decode_same_opcode h h', Instr.length_eq_two_or_three⟩

end Sys2Proof.Machine
end

section
/-!
PROOFS. The Execute command of 40_fetch_execute.md (R81) where no instruction is run.
-/

namespace Sys2Proof.Machine

/-- With no call in progress there is none to end: the result is recorded, nothing else changes. -/
theorem State.endCall_of_idle {s : State} (h : s.call = none) (r : Result) :
    s.endCall r = { s with result := some r } := by
  cases s
  cases h
  rfl

/-- R81: a budget of 0 ends the call at once, before the latch is looked at. -/
theorem execute_zero {s : State} (h : s.Ready) : execute 0 s = .next (s.endCall (.ok 0)) := by
  obtain ⟨hreset, hidle⟩ := h
  simp [execute, hreset, hidle]

/-- Settles O34: the call ends before its first turn, and no call was in progress. -/
theorem executeZeroDoesNothing : Obligations.ExecuteZeroDoesNothing := by
  intro s h
  rw [execute_zero h, State.endCall_of_idle h.2]

end Sys2Proof.Machine
end

section
/-!
PROOFS. The addressing modes of 41_addressing_modes.md (R101 to R107) with the loads that use them:
where the operand field is fetched, the effect of a load of either length, the range of an indexed
zero-page address, and the statements about them.
-/

namespace Sys2Proof

/-! Addresses (R9) -/

/-- R103, R104: the sum of a zero-page address and an index keeps its low 8 bits. -/
theorem toNat_zext16_add8 (z index : Byte) :
    (zext16 (add8 z index)).toNat = (z.toNat + index.toNat) % 256 := by
  rw [toNat_zext16, add8, BitVec.toNat_add]

end Sys2Proof

namespace Sys2Proof.Machine

/-! The operand field (R61, R62) -/

/-- The operand byte of an instruction at PC is the byte after its opcode. -/
theorem operand_of_encodeByte {mk : Byte → Instr} {op : Byte}
    (hencode : ∀ z, encode (mk z) = encodeByte op z) {s : State} {z : Byte} {rest : List Byte}
    (h : decode s.fetchBytes = .instr (mk z) rest) : z = s.readByte (add16 s.pc 1) := by
  have hfield : (encode (mk z))[1]? = some z := by rw [hencode, encodeByte]; rfl
  exact (State.readByte_of_decode_fetchBytes h hfield).symm

/-- The operand word of an instruction at PC is the two bytes after its opcode, low byte first. -/
theorem operand_of_encodeWord {mk : Word → Instr} {op : Byte}
    (hencode : ∀ addr, encode (mk addr) = encodeWord op addr) {s : State} {addr : Word}
    {rest : List Byte} (h : decode s.fetchBytes = .instr (mk addr) rest) :
    addr = mkWord (s.readByte (add16 s.pc 2)) (s.readByte (add16 s.pc 1)) := by
  have hlo : (encode (mk addr))[1]? = some (lo8 addr) := by rw [hencode, encodeWord]; rfl
  have hhi : (encode (mk addr))[2]? = some (hi8 addr) := by rw [hencode, encodeWord]; rfl
  have hlo' : s.readByte (add16 s.pc 1) = lo8 addr := State.readByte_of_decode_fetchBytes h hlo
  have hhi' : s.readByte (add16 s.pc 2) = hi8 addr := State.readByte_of_decode_fetchBytes h hhi
  rw [hlo', hhi', mkWord_hi8_lo8]

/-! The effect of a load (R100, R120) -/

/-- Every load completes, and the resolved operand is all it writes. -/
theorem exec_load_spec {i : Instr} {r : Reg} {o : Operand} (h : loadForm i = some (r, o))
    (s : State) :
    ∃ t, exec i s = .next t ∧ WritesRegister s t r (o.value s) i.length (instrCycles s i) := by
  refine ⟨s.load r o, exec_load i r o h s, ?_⟩
  rw [← loadForm_length i r o h, ← loadForm_cycles i r o h s]
  exact s.load_spec r o

/-- A load with one operand byte, from its rows in the encoder and in the table of loads. -/
theorem byteForm_of_load {mk : Byte → Instr} {op : Byte} {r : Reg} {field : Byte → Operand}
    (hencode : ∀ z, encode (mk z) = encodeByte op z)
    (hload : ∀ z, loadForm (mk z) = some (r, field z)) :
    ByteForm mk r (fun z s => (field z).value s) (fun z s => instrCycles s (mk z)) := by
  refine ⟨fun s z rest h => operand_of_encodeByte hencode h, fun z s => ?_⟩
  have hlength : (mk z).length = 2 := by rw [← length_encode, hencode, encodeByte]; rfl
  simpa only [hlength] using exec_load_spec (hload z) s

/-- A load with two operand bytes, from its rows in the encoder and in the table of loads. -/
theorem wordForm_of_load {mk : Word → Instr} {op : Byte} {r : Reg} {field : Word → Operand}
    (hencode : ∀ addr, encode (mk addr) = encodeWord op addr)
    (hload : ∀ addr, loadForm (mk addr) = some (r, field addr)) :
    WordForm mk r (fun addr s => (field addr).value s) (fun addr s => instrCycles s (mk addr)) := by
  refine ⟨fun s addr rest h => operand_of_encodeWord hencode h, fun addr s => ?_⟩
  have hlength : (mk addr).length = 3 := by rw [← length_encode, hencode, encodeWord]; rfl
  simpa only [hlength] using exec_load_spec (hload addr) s

/-! The modes: the operand value and the cycles each statement writes out are those of the mode's
rows in `Operand.value` and `instrCycles`, by definition. -/

/-- Settles O9: loads with one operand byte, which is the operand itself. -/
theorem immediateLoadsTheNextByte : Obligations.ImmediateLoadsTheNextByte :=
  ⟨byteForm_of_load (field := .imm) (fun _ => rfl) (fun _ => rfl),
    byteForm_of_load (field := .imm) (fun _ => rfl) (fun _ => rfl),
    byteForm_of_load (field := .imm) (fun _ => rfl) (fun _ => rfl)⟩

/-- Settles O10: loads with one operand byte, which is the address zero-extended. -/
theorem zeroPageLoadsFromPageZero : Obligations.ZeroPageLoadsFromPageZero := by
  refine ⟨byteForm_of_load (field := .zp) (fun _ => rfl) (fun _ => rfl),
    byteForm_of_load (field := .zp) (fun _ => rfl) (fun _ => rfl),
    byteForm_of_load (field := .zp) (fun _ => rfl) (fun _ => rfl),
    fun z => ?_⟩
  rw [toNat_zext16]
  omega

/-- Settles O11: loads with one operand byte, to which X is added before the extension. -/
theorem zeroPageXWrapsInPageZero : Obligations.ZeroPageXWrapsInPageZero :=
  ⟨byteForm_of_load (field := .zpX) (fun _ => rfl) (fun _ => rfl),
    byteForm_of_load (field := .zpX) (fun _ => rfl) (fun _ => rfl), toNat_zext16_add8, rfl⟩

/-- Settles O12: a load with one operand byte, to which Y is added before the extension. -/
theorem zeroPageYWrapsInPageZero : Obligations.ZeroPageYWrapsInPageZero :=
  ⟨byteForm_of_load (field := .zpY) (fun _ => rfl) (fun _ => rfl), toNat_zext16_add8, rfl⟩

/-- Settles O13: loads with two operand bytes, which are the address. -/
theorem absoluteLoadsFromTheFullAddress : Obligations.AbsoluteLoadsFromTheFullAddress :=
  ⟨wordForm_of_load (field := .abs) (fun _ => rfl) (fun _ => rfl),
    wordForm_of_load (field := .abs) (fun _ => rfl) (fun _ => rfl),
    wordForm_of_load (field := .abs) (fun _ => rfl) (fun _ => rfl)⟩

/-- Settles O14: loads with two operand bytes, which are the base X is added to; the cycles of the
table's row are `crossCycle` of base and X over 4. -/
theorem absoluteXAddsXAndPaysThePageCross : Obligations.AbsoluteXAddsXAndPaysThePageCross :=
  ⟨wordForm_of_load (field := .absX) (fun _ => rfl) (fun _ => rfl),
    wordForm_of_load (field := .absX) (fun _ => rfl) (fun _ => rfl), rfl, rfl, rfl⟩

/-- Settles O15: as O14, with Y. -/
theorem absoluteYAddsYAndPaysThePageCross : Obligations.AbsoluteYAddsYAndPaysThePageCross :=
  ⟨wordForm_of_load (field := .absY) (fun _ => rfl) (fun _ => rfl),
    wordForm_of_load (field := .absY) (fun _ => rfl) (fun _ => rfl)⟩

end Sys2Proof.Machine
end

section
/-!
PROOFS. The round trip of 30_encoding.md (R60 to R65): the decoder reads back what the encoder
writes; the supported opcode bytes; the triples that are instructions; and the statements about
them.
-/

namespace Sys2Proof

/-! Decoding an encoding -/

theorem decode_encodeByte {op : Byte} {mk : Byte → Instr} (h : opcodeEntry op = some (.byte mk))
    (b : Byte) (rest : List Byte) : decode (encodeByte op b ++ rest) = .instr (mk b) rest := by
  simp [encodeByte, decode_cons, h, decodeOperand]

theorem decode_encodeWord {op : Byte} {mk : Word → Instr} (h : opcodeEntry op = some (.word mk))
    (w : Word) (rest : List Byte) : decode (encodeWord op w ++ rest) = .instr (mk w) rest := by
  simp [encodeWord, decode_cons, h, decodeOperand]

/-- The encoder's opcode byte of every instruction is the one of its row in the decoder's table. -/
theorem decode_encode (i : Instr) (rest : List Byte) :
    decode (encode i ++ rest) = .instr i rest := by
  cases i with
  | ldaImm b | ldaZp b | ldaZpX b | ldaIndX b | ldaIndY b | ldxImm b | ldxZp b | ldxZpY b
  | ldyImm b | ldyZp b | ldyZpX b | oraImm b => exact decode_encodeByte rfl b rest
  | ldaAbs w | ldaAbsX w | ldaAbsY w | ldxAbs w | ldxAbsY w | ldyAbs w | ldyAbsX w | jsrAbs w =>
    exact decode_encodeWord rfl w rest

/-- Settles O2: by `decode_encode`, the operand bytes put together again by `mkWord_hi8_lo8`. -/
theorem decodeOfEncodeIsTheInstruction : Obligations.DecodeOfEncodeIsTheInstruction :=
  decode_encode

/-- Settles O3: by `decode_eq_encode_append`, the table and the encoder having the same rows. -/
theorem decodedBytesAreTheEncoding : Obligations.DecodedBytesAreTheEncoding :=
  fun _ _ _ => decode_eq_encode_append

/-- Settles O1: the words are encodings, read back by `decode_encode`, and 0x00 has no row. -/
theorem tableWordsDecodeToTheirRows : Obligations.TableWordsDecodeToTheirRows :=
  ⟨decode_encode (.ldaImm 0x84) [], decode_encode (.ldaAbsX 0x4402) [],
    decode_encode (.ldxZpY 0x80) [], decode_encode (.ldyAbsX 0x4402) [],
    decode_encode (.oraImm 0x80) [], decode_encode (.jsrAbs 0x1234) [],
    decode_unsupported 0x00 [0xA9, 0x01] rfl⟩

/-! The supported opcode bytes -/

/-- Two bytes after a supported opcode byte are enough to decode an instruction. -/
theorem decode_of_opcodeEntry {op : Byte} {field : OperandField} (h : opcodeEntry op = some field)
    (b1 b2 : Byte) (rest : List Byte) :
    ∃ i tail, decode (op :: b1 :: b2 :: rest) = .instr i tail := by
  rw [decode_cons, h]
  exact decodeOperand_two field b1 b2 rest

/-- Settles O5: the supported bytes are those the table has a row for. -/
theorem exactlyTwentyOpcodesAreSupported : Obligations.ExactlyTwentyOpcodesAreSupported := by
  refine ⟨opcodeTable_opcodes_nodup, rfl, fun op b1 b2 rest => ⟨fun hop => ?_, fun hop => ?_⟩⟩
  · cases hentry : opcodeEntry op with
    | none => exact absurd hop ((Machine.not_supported_iff op).mpr hentry)
    | some field => exact decode_of_opcodeEntry hentry b1 b2 rest
  · exact decode_unsupported op _ ((Machine.not_supported_iff op).mp hop)

/-! The triples that are instructions -/

/-- The modes a mnemonic has are those of its rows in the opcode table. -/
theorem modeAllowed_iff (op : Operation) (m : Mode) :
    modeAllowed op m = true ↔ (op, m) ∈ opcodeTable.map fun row => row.2.form := by
  cases op <;> cases m <;> decide

/-- Every instruction of a row has the row's operation and mode and as operand number the operand
itself, which fills the operand bytes of the mode. -/
def OperandField.HasForm (field : OperandField) : Prop :=
  match field with
  | .byte mk => field.form.2.operandBytes = 1 ∧ ∀ b : Byte, (mk b).operation = field.form.1 ∧
      (mk b).mode = field.form.2 ∧ (mk b).operandNat = b.toNat
  | .word mk => field.form.2.operandBytes = 2 ∧ ∀ w : Word, (mk w).operation = field.form.1 ∧
      (mk w).mode = field.form.2 ∧ (mk w).operandNat = w.toNat

theorem opcodeTable_hasForm : ∀ row ∈ opcodeTable, row.2.HasForm := by
  simp [opcodeTable, OperandField.HasForm, OperandField.form, Instr.operation, Instr.mode,
    Instr.operandNat, Mode.operandBytes]

/-- An operand number that fits the mode is the operand of some instruction of the row. -/
theorem OperandField.exists_instr {field : OperandField} (hform : field.HasForm) {operand : Nat}
    (hfits : operandFits field.form.2 operand = true) :
    ∃ i : Instr, i.operation = field.form.1 ∧ i.mode = field.form.2 ∧ i.operandNat = operand := by
  have hlt : operand < 256 ^ field.form.2.operandBytes := of_decide_eq_true hfits
  cases field with
  | byte mk =>
    obtain ⟨hbytes, hmk⟩ := hform
    obtain ⟨hoperation, hmode, hoperand⟩ := hmk (BitVec.ofNat 8 operand)
    rw [hbytes] at hlt
    exact ⟨_, hoperation, hmode, hoperand.trans (Nat.mod_eq_of_lt hlt)⟩
  | word mk =>
    obtain ⟨hbytes, hmk⟩ := hform
    obtain ⟨hoperation, hmode, hoperand⟩ := hmk (BitVec.ofNat 16 operand)
    rw [hbytes] at hlt
    exact ⟨_, hoperation, hmode, hoperand.trans (Nat.mod_eq_of_lt hlt)⟩

theorem Instr.mode_allowed (i : Instr) : modeAllowed i.operation i.mode = true := by
  cases i <;> rfl

/-- The operand field of every constructor has the width of its mode. -/
theorem Instr.operand_fits (i : Instr) : operandFits i.mode i.operandNat = true := by
  cases i <;> exact decide_eq_true (BitVec.isLt _)

/-- Settles O6: an allowed mode has a row of the table, whose operand field holds the operand; the
other way, the checks hold of every constructor. -/
theorem wellFormedTriplesAreTheInstructions : Obligations.WellFormedTriplesAreTheInstructions := by
  intro op m operand
  rw [wellFormed, Bool.and_eq_true]
  constructor
  · rintro ⟨hallowed, hfits⟩
    obtain ⟨row, hrow, hform⟩ := List.mem_map.mp ((modeAllowed_iff op m).mp hallowed)
    obtain ⟨rfl, rfl⟩ := Prod.mk.inj hform
    exact OperandField.exists_instr (opcodeTable_hasForm row hrow) hfits
  · rintro ⟨i, rfl, rfl, rfl⟩
    exact ⟨i.mode_allowed, i.operand_fits⟩

end Sys2Proof
end

section
/-!
PROOFS. Word access (20_memory.md), the page cross and the indirect modes (41_addressing_modes.md),
the instructions and their frames (42_loads.md, 43_logical.md, 44_control.md), and the statements
about them.
-/

namespace Sys2Proof.Machine

/-! Words in memory -/

/-- Settles O8: the byte at each of the two addresses, by `State.readByte_writeWord`. -/
theorem wordAccessIsLittleEndian : Obligations.WordAccessIsLittleEndian := by
  intro s addr val hm
  have hlo : (s.writeWord addr val).readByte addr = lo8 val := by
    rw [State.readByte_writeWord s addr val _ hm, if_pos rfl]
  have hhi : (s.writeWord addr val).readByte (add16 addr 1) = hi8 val := by
    rw [State.readByte_writeWord s addr val _ hm, if_neg (add16_one_ne addr), if_pos rfl]
  refine ⟨?_, hlo, hhi, fun a => State.readByte_writeWord_ne s addr val a, rfl⟩
  rw [State.readWord, hlo, hhi, mkWord_hi8_lo8]

/-! The page cross (R110) -/

theorem pageCross_iff (base : Word) (index : Byte) :
    pageCross base index = true ↔ 0xFF < (lo8 base).toNat + index.toNat :=
  decide_eq_true_iff

/-- The low byte carries into the high byte, which so changes (from 0xFF to 0x00 too). -/
theorem hi8_baseIndexed_ne_iff (base : Word) (index : Byte) :
    hi8 (add16 base (zext16 index)) ≠ hi8 base ↔ 0xFF < (lo8 base).toNat + index.toNat := by
  have hsum : (hi8 (add16 base (zext16 index))).toNat =
      (base.toNat + index.toNat) % 65536 / 256 := by
    rw [toNat_hi8, add16, BitVec.toNat_add, toNat_zext16]
  have hbase := base.isLt
  have hindex := index.isLt
  rw [Ne, ← BitVec.toNat_inj, hsum, toNat_hi8, toNat_lo8]
  omega

/-- Settles O18: the definition, the same moved across the sum, and the carry into the high byte. -/
theorem pageCrossIsAChangeOfTheHighByte : Obligations.PageCrossIsAChangeOfTheHighByte := by
  intro base index
  rw [pageCross_iff, hi8_baseIndexed_ne_iff]
  exact ⟨Iff.rfl, by have := index.isLt; omega, Iff.rfl⟩

/-! The indirect modes -/

/-- Settles O16: a load with one operand byte; its pointer is read by `State.readWord`. -/
theorem indexedIndirectReadsThroughTheXPointer :
    Obligations.IndexedIndirectReadsThroughTheXPointer :=
  ⟨byteForm_of_load (field := .indX) (fun _ => rfl) (fun _ => rfl), rfl⟩

/-- The cycles of LDA Indirect Indexed (Y): the low byte of the base is the byte at the pointer. -/
theorem instrCycles_ldaIndY (z : Byte) (s : State) :
    instrCycles s (.ldaIndY z) =
      5 + if 0xFF < (s.readByte (zext16 z)).toNat + s.y.toNat then 1 else 0 := by
  rw [instrCycles, crossCycle, State.readWord, lo8_mkWord]

/-- Settles O17: a load with one operand byte, and the cycles of `instrCycles_ldaIndY`. -/
theorem indirectIndexedAddsYToThePointedBase :
    Obligations.IndirectIndexedAddsYToThePointedBase := by
  have hform := byteForm_of_load (mk := .ldaIndY) (field := .indY) (fun _ => rfl) (fun _ => rfl)
  simp only [instrCycles_ldaIndY] at hform
  exact hform

/-! Loads and ORA -/

/-- Settles O19: by `exec_load_spec`. -/
theorem everyLoadWritesItsRegisterAndNothingElse :
    Obligations.EveryLoadWritesItsRegisterAndNothingElse :=
  fun _ _ _ => exec_load_spec

/-- Decision D2: the index of a load's mode is never the register it writes. -/
theorem loadForm_operand_setReg {i : Instr} {r : Reg} {o : Operand}
    (h : loadForm i = some (r, o)) (s : State) (old : Byte) :
    o.value (s.setReg r old) = o.value s ∧ o.cycles (s.setReg r old) = o.cycles s := by
  cases i <;> cases h <;> exact ⟨rfl, rfl⟩

@[simp] theorem State.setReg_setReg (s : State) (r : Reg) (old val : Byte) :
    (s.setReg r old).setReg r val = s.setReg r val := by
  cases r <;> rfl

/-- Settles O20: the operand is the same, and the old value is overwritten. -/
theorem loadsIgnoreTheOldValueOfTheirRegister :
    Obligations.LoadsIgnoreTheOldValueOfTheirRegister := by
  intro i r o h s old
  obtain ⟨hvalue, hcycles⟩ := loadForm_operand_setReg h s old
  rw [exec_load i r o h, exec_load i r o h, State.load, hvalue, hcycles, State.setReg_setReg,
    State.load]

/-- Settles O21: the operand byte by the encoder's row, the effect by `State.orA_spec`. -/
theorem oraImmediateWritesTheOrOfAAndTheOperand :
    Obligations.OraImmediateWritesTheOrOfAAndTheOperand :=
  ⟨fun _ _ _ => operand_of_encodeByte (fun _ => rfl),
    fun imm s => ⟨_, exec_oraImm imm s, s.orA_spec (.imm imm)⟩⟩

/-! JSR -/

theorem State.readByte_jsr_eq (s : State) (target a : Word) :
    (s.jsr target).readByte a = (s.writeWord s.sp (add16 s.pc 2)).readByte a := by
  rw [← State.jsrReturn_eq]
  rfl

/-- Settles O22: the target is the operand word, the fields are those of `State.jsr_spec`, and
memory is that of the word write at SP. -/
theorem jsrJumpsAndMovesTheStackPointer : Obligations.JsrJumpsAndMovesTheStackPointer := by
  refine ⟨fun s addr rest => operand_of_encodeWord (fun _ => rfl), fun target s => ?_⟩
  obtain ⟨hpc, hsp, hreg, hz, hn, -, huntouched, hconsumed⟩ := s.jsr_spec target
  refine ⟨_, exec_jsrAbs target s, hpc, hsp, hreg, hz, hn, huntouched, hconsumed, rfl,
    fun a hlo hhi => ?_⟩
  rw [State.readByte_jsr_eq]
  exact s.readByte_writeWord_ne _ _ a hlo hhi

/-- Settles O23: the word write at SP, and the fetch at the target, which reads the new memory. -/
theorem jsrPushIsReadBackAndFetched : Obligations.JsrPushIsReadBackAndFetched := by
  intro target s hm
  refine ⟨_, exec_jsrAbs target s, fun a => ?_, rfl⟩
  rw [State.readByte_jsr_eq, s.readByte_writeWord _ _ a hm]

/-! PC and SP -/

theorem loadForm_operation_ne_jsr {i : Instr} {r : Reg} {o : Operand}
    (h : loadForm i = some (r, o)) : i.operation ≠ .jsr := by
  cases i <;> cases h <;> simp [Instr.operation]

/-- Settles O24: a load and ORA move PC by their operand's length, JSR puts the target there. -/
theorem pcFollowsLengthOrJsrTarget : Obligations.PcFollowsLengthOrJsrTarget := by
  intro i s t h
  rw [length_encode]
  obtain ⟨r, o, hf, rfl⟩ | ⟨imm, rfl, rfl⟩ | ⟨target, rfl, rfl⟩ := exec_cases i s t h
  case inl =>
    rw [← loadForm_length i r o hf]
    refine ⟨fun _ => rfl, ?_⟩
    rintro target rfl
    exact absurd rfl (loadForm_operation_ne_jsr hf)
  case inr.inl => exact ⟨fun _ => rfl, nofun⟩
  case inr.inr =>
    refine ⟨fun hne => absurd rfl hne, ?_⟩
    rintro _ ⟨⟩
    rfl

/-- No operand is resolved from SP. -/
theorem State.load_set_sp (s : State) (r : Reg) (o : Operand) (old : Word) :
    ({ s with sp := old } : State).load r o = { s.load r o with sp := old } :=
  State.load_congr r o rfl rfl rfl

/-- Settles O28: loads and ORA pass SP through, JSR adds 1 to it. -/
theorem stackPointerIsUsedByJsrAlone : Obligations.StackPointerIsUsedByJsrAlone := by
  intro i s t old h
  obtain ⟨r, o, hf, rfl⟩ | ⟨imm, rfl, rfl⟩ | ⟨target, rfl, rfl⟩ := exec_cases i s t h
  case inl =>
    rw [exec_load i r o hf, State.load_set_sp]
    exact ⟨fun _ => ⟨rfl, rfl⟩, fun hjsr => absurd hjsr (loadForm_operation_ne_jsr hf)⟩
  case inr.inl => exact ⟨fun _ => ⟨rfl, rfl⟩, nofun⟩
  case inr.inr => exact ⟨fun hne => absurd rfl hne, fun _ => rfl⟩

end Sys2Proof.Machine
end

section
/-!
PROOFS. The budget loop of 40_fetch_execute.md (R80 to R92) and the error path of 60_exceptions.md:
the loop as a relation between the state a call begins in and the state its last turn is taken in,
what Execute is in its terms, and the statements about Execute.
-/

namespace Sys2Proof.Machine

/-! What an instruction does to the engine's own fields -/

/-- R87, whatever the instruction: its cycles go from the counter of the call it runs in. -/
theorem exec_consumed {i : Instr} {s t : State} (h : exec i s = .next t) :
    Consumed s t (instrCycles s i) := by
  obtain ⟨r, o, hf, rfl⟩ | ⟨imm, rfl, rfl⟩ | ⟨target, rfl, rfl⟩ := exec_cases i s t h
  · rw [← loadForm_cycles i r o hf]
    rfl
  · rfl
  · rfl

theorem exec_idle {i : Instr} {s t : State} (h : exec i s = .next t) (hidle : s.call = none) :
    t.call = none := by
  have hconsumed : t.call = s.call.map _ := exec_consumed h
  rw [hconsumed, hidle, Option.map_none]

/-- The state in the middle of the call `k`. -/
def State.withCall (s : State) (k : Call) : State := { s with call := some k }

theorem State.beginCall_eq_withCall (s : State) (budget : Nat) :
    s.beginCall budget = s.withCall ⟨budget, budget⟩ := rfl

theorem exec_withCall {i : Instr} {s t : State} (h : exec i s = .next t) (k : Call) :
    exec i (s.withCall k) = .next (t.withCall (k.consume (instrCycles s i))) := by
  obtain ⟨-, -, -, -, -, hlatch, hresult, hreset⟩ := exec_untouched i s t h
  rw [State.withCall, State.withCall, hlatch, hresult, hreset]
  exact exec_engine_fields i s t (some k) s.latch s.result s.wasReset h

theorem exec_set_result {i : Instr} {s t : State} (h : exec i s = .next t)
    (result : Option Result) :
    exec i { s with result := result } = .next { t with result := result } := by
  obtain ⟨-, -, -, -, -, hlatch, -, hreset⟩ := exec_untouched i s t h
  have hconsumed : t.call = s.call.map _ := exec_consumed h
  rw [hlatch, hreset, hconsumed]
  exact exec_engine_fields i s t s.call s.latch result s.wasReset h

/-! The loop -/

/-- The loop of R80 with counter `rem` runs the instructions `is` from `s`, one whole instruction
per turn, and takes its last turn in `u` with counter `rem'`: because the counter is used up or the
byte at PC is an unsupported opcode. -/
inductive LoopRun : Int → State → List Instr → State → Int → Prop
  | stop {rem : Int} {s : State} (h : rem ≤ 0 ∨ opcodeEntry (s.readByte s.pc) = none) :
      LoopRun rem s [] s rem
  | instr {rem rem' : Int} {s t u : State} {i : Instr} {rest : List Byte} {is : List Instr}
      (hrem : 0 < rem) (hd : decode s.fetchBytes = .instr i rest) (he : exec i s = .next t)
      (hrun : LoopRun (rem - instrCycles s i) t is u rem') : LoopRun rem s (i :: is) u rem'

/-- Every instruction consumes a cycle, so the loop ends from every state and counter. -/
theorem exists_loopRun (rem : Int) (s : State) : ∃ is u rem', LoopRun rem s is u rem' := by
  induction hn : rem.toNat using Nat.strong_induction_on generalizing rem s with
  | h n ih =>
    by_cases hrem : rem ≤ 0
    · exact ⟨[], s, rem, .stop (.inl hrem)⟩
    · obtain ⟨i, rest, hd⟩ | hop := fetch_cases s
      · obtain ⟨t, he⟩ := exec_next i s
        have hcycles := instrCycles_bounds s i
        obtain ⟨is, u, rem', hrun⟩ := ih _ (by omega) (rem - instrCycles s i) t rfl
        exact ⟨i :: is, u, rem', .instr (by omega) hd he hrun⟩
      · exact ⟨[], s, rem, .stop (.inr hop)⟩

section

variable {rem rem' : Int} {s u : State} {is : List Instr}

theorem LoopRun.stopped (h : LoopRun rem s is u rem') :
    rem' ≤ 0 ∨ opcodeEntry (u.readByte u.pc) = none := by
  induction h with
  | stop h => exact h
  | instr _ _ _ _ ih => exact ih

/-- The instructions of the loop are fetched one after the other, and its counter pays for them. -/
theorem LoopRun.runInstrs (h : LoopRun rem s is u rem') :
    runInstrs is s = some u ∧ rem' = rem - totalCycles is s := by
  induction h with
  | stop => exact ⟨rfl, by simp [totalCycles]⟩
  | instr _ hd he _ ih =>
    obtain ⟨hrun, hrem⟩ := ih
    refine ⟨by simpa [Machine.runInstrs, hd, he] using hrun, ?_⟩
    simp only [totalCycles, he]
    omega

/-- R89: the last instruction started with a cycle left. -/
theorem LoopRun.overrun (h : LoopRun rem s is u rem') (hrem : -5 ≤ rem) : -5 ≤ rem' := by
  induction h with
  | stop => exact hrem
  | @instr _ _ s _ _ i _ _ hpos _ _ _ ih =>
    have hcycles := instrCycles_bounds s i
    exact ih (by omega)

theorem LoopRun.length_le (h : LoopRun rem s is u rem') : is.length ≤ rem.toNat := by
  induction h with
  | stop => exact Nat.zero_le _
  | @instr _ _ s _ _ i _ _ hpos _ _ _ ih =>
    have hcycles := instrCycles_bounds s i
    rw [List.length_cons]
    omega

/-- No instruction touches the latch or the issued Reset, and an idle state stays idle. -/
theorem LoopRun.engine (h : LoopRun rem s is u rem') :
    u.latch = s.latch ∧ u.wasReset = s.wasReset ∧ (s.call = none → u.call = none) := by
  induction h with
  | stop => exact ⟨rfl, rfl, id⟩
  | instr _ _ he _ ih =>
    obtain ⟨-, -, -, -, -, hlatch, -, hreset⟩ := exec_untouched _ _ _ he
    obtain ⟨hlatch', hreset', hidle⟩ := ih
    exact ⟨hlatch'.trans hlatch, hreset'.trans hreset, fun h => hidle (exec_idle he h)⟩

theorem LoopRun.ready (h : LoopRun rem s is u rem') (hs : s.Ready) : u.Ready := by
  obtain ⟨-, hreset, hidle⟩ := h.engine
  exact ⟨hreset.trans hs.1, hidle hs.2⟩

/-- No instruction reads the result of an earlier call. -/
theorem LoopRun.set_result (h : LoopRun rem s is u rem') (result : Option Result) :
    LoopRun rem { s with result := result } is { u with result := result } rem' := by
  induction h with
  | stop h => exact .stop h
  | instr hrem hd he _ ih =>
    exact .instr hrem hd (exec_set_result he result) ih

/-- Decision D8: a loop that used up its counter and a loop from where it ended are one loop, its
counter what the first consumed and the second was given. -/
theorem LoopRun.append {b2 rem2 : Int} {u2 : State} {is2 : List Instr}
    (h : LoopRun rem s is u rem') (hrem' : rem' ≤ 0) (hb2 : 0 ≤ b2)
    (h2 : LoopRun b2 u is2 u2 rem2) : LoopRun (rem - rem' + b2) s (is ++ is2) u2 rem2 := by
  induction h with
  | stop => simpa using h2
  | @instr rem rem' s t u i _ _ hpos hd he _ ih =>
    refine .instr (by omega) hd he ?_
    have hcounter : rem - rem' + b2 - instrCycles s i = rem - instrCycles s i - rem' + b2 := by
      omega
    rw [hcounter]
    exact ih hrem' h2

end

/-! The loop and the model's functions -/

theorem step_withCall {s : State} (h : s.wasReset = true) (k : Call) :
    step (s.withCall k) = turn k (s.withCall k) :=
  step_inCall _ k ⟨h, rfl⟩

/-- The last turn of a call ends it and overwrites what stood in `call` and `result`. -/
theorem turn_of_stopped {k : Call} {u : State}
    (h : k.remaining ≤ 0 ∨ opcodeEntry (u.readByte u.pc) = none) (call : Option Call)
    (result : Option Result) :
    ∃ t, turn k u = .next t ∧ turn k { u with call := call, result := result } = .next t ∧
      t.call = none ∧ t.result.isSome = true := by
  by_cases hrem : k.remaining ≤ 0
  · exact ⟨_, turn_return k u hrem, turn_return k _ hrem, rfl, rfl⟩
  · have hop := h.resolve_left hrem
    exact ⟨_, turn_unsupported k u (by omega) hop, turn_unsupported k _ (by omega) hop, rfl, rfl⟩

theorem turn_withCall_of_stopped {k : Call} {u : State}
    (h : k.remaining ≤ 0 ∨ opcodeEntry (u.readByte u.pc) = none) :
    ∃ t, turn k u = .next t ∧ turn k (u.withCall k) = .next t ∧ t.call = none := by
  obtain ⟨t, hturn, hturn', hidle, -⟩ := turn_of_stopped h (some k) u.result
  exact ⟨t, hturn, hturn', hidle⟩

theorem turn_withCall_instr {k : Call} {s t : State} {i : Instr} {rest : List Byte}
    (hrem : 0 < k.remaining) (hd : decode s.fetchBytes = .instr i rest)
    (he : exec i s = .next t) :
    turn k (s.withCall k) = .next (t.withCall (k.consume (instrCycles s i))) :=
  (turn_instr k (s.withCall k) i rest hrem hd).trans (exec_withCall he k)

/-- With fuel for every turn, `runCall` is the loop and its last turn. -/
theorem runCall_of_loopRun {budget fuel : Nat} {rem rem' : Int} {s u : State} {is : List Instr}
    (h : LoopRun rem s is u rem') (hfuel : is.length < fuel) :
    runCall fuel (s.withCall ⟨budget, rem⟩) = turn ⟨budget, rem'⟩ u := by
  induction h generalizing fuel with
  | @stop rem s h =>
    obtain ⟨fuel, rfl⟩ := Nat.exists_eq_succ_of_ne_zero (Nat.ne_zero_of_lt hfuel)
    obtain ⟨t, hturn, hturn', hidle⟩ := turn_withCall_of_stopped (k := ⟨budget, rem⟩) h
    rw [runCall_turn fuel _ _ t rfl hturn', runCall_idle fuel t hidle, hturn]
  | instr hrem hd he _ ih =>
    obtain ⟨fuel, rfl⟩ := Nat.exists_eq_succ_of_ne_zero (Nat.ne_zero_of_lt hfuel)
    rw [runCall_turn fuel _ _ _ rfl (turn_withCall_instr hrem hd he)]
    exact ih (by simpa using hfuel)

/-- An Execute that is not stopped by the latch is the loop from its budget and the last turn. -/
theorem execute_of_loopRun {budget : Nat} {rem' : Int} {s u : State} {is : List Instr}
    (hs : s.Ready) (hl : s.latch = none) (h : LoopRun budget s is u rem') :
    execute budget s = turn ⟨budget, rem'⟩ u := by
  obtain rfl | hb := Nat.eq_zero_or_pos budget
  · cases h with
    | stop => exact execute_zero hs
    | instr hrem => exact absurd hrem (lt_irrefl _)
  · rw [execute_ready budget s hb hs hl, State.beginCall_eq_withCall]
    have hlength := h.length_le
    exact runCall_of_loopRun h (by omega)

/-- A call's consumed cycles are those of the instructions it ran (R88). -/
theorem LoopRun.consumed {budget : Nat} {rem' : Int} {s u : State} {is : List Instr}
    (h : LoopRun budget s is u rem') : Call.consumed ⟨budget, rem'⟩ = totalCycles is s := by
  obtain ⟨-, hrem⟩ := h.runInstrs
  simp only [Call.consumed]
  omega

/-- R161 from a state with no call in progress but `k`. -/
theorem State.takeUnsupported_of_idle {s : State} (h : s.call = none) (k : Call) :
    s.takeUnsupported k = { s with
      pc := add16 s.pc 1
      latch := some (s.readByte s.pc, s.pc)
      result := some (.unsupported (s.readByte s.pc) s.pc (k.consume 1).consumed) } :=
  State.endCall_of_idle (s := (s.advancePc 1).setLatch (s.readByte s.pc) s.pc) h _

/-- Everything an Execute that is not stopped by the latch does: it runs the instructions of its
loop and returns Ok where the counter is used up, the error where an unsupported opcode is
fetched. -/
theorem execute_unlatched (budget : Nat) (s : State) (hs : s.Ready) (hl : s.latch = none) :
    ∃ is u rem', LoopRun budget s is u rem' ∧
      ((rem' ≤ 0 ∧
        execute budget s = .next { u with result := some (.ok (totalCycles is s)) }) ∨
       (0 < rem' ∧ opcodeEntry (u.readByte u.pc) = none ∧
        execute budget s = .next { u with
          pc := add16 u.pc 1
          latch := some (u.readByte u.pc, u.pc)
          result := some (.unsupported (u.readByte u.pc) u.pc (totalCycles is s + 1)) })) := by
  obtain ⟨is, u, rem', h⟩ := exists_loopRun budget s
  obtain ⟨-, hidle⟩ := h.ready hs
  refine ⟨is, u, rem', h, ?_⟩
  rw [execute_of_loopRun hs hl h]
  by_cases hrem : rem' ≤ 0
  · refine .inl ⟨hrem, ?_⟩
    rw [turn_return _ u hrem, State.returnOk, h.consumed, State.endCall_of_idle hidle]
  · have hop := h.stopped.resolve_left hrem
    have hconsumed : (Call.consume ⟨budget, rem'⟩ 1).consumed = totalCycles is s + 1 := by
      obtain ⟨-, htotal⟩ := h.runInstrs
      simp only [Call.consumed, Call.consume]
      omega
    refine .inr ⟨by omega, hop, ?_⟩
    rw [turn_unsupported _ u (by simpa using hrem) hop, State.takeUnsupported_of_idle hidle,
      hconsumed]

theorem execute_latched {budget : Nat} {s : State} {op : Byte} {opPc : Word} (hb : 0 < budget)
    (hs : s.Ready) (hl : s.latch = some (op, opPc)) :
    execute budget s = .next { s with result := some (.unsupported op opPc 0) } := by
  obtain ⟨hreset, hidle⟩ := hs
  rw [← State.endCall_of_idle hidle]
  simp [execute, hreset, hidle, hl, show budget ≠ 0 by omega]

/-! The statements -/

/-- The loop as a run of steps: each but the last leaves the call in progress. -/
theorem core_run_of_loopRun {budget : Nat} {rem rem' : Int} {s u : State} {is : List Instr}
    (h : LoopRun rem s is u rem') (hreset : s.wasReset = true) :
    Sys2Proof.core.run (is.length + 1) (s.withCall ⟨budget, rem⟩) =
      turn ⟨budget, rem'⟩ u ∧
    ∀ j, j < is.length + 1 → ∃ v : State, ∃ call : Call,
      Sys2Proof.core.run j (s.withCall ⟨budget, rem⟩) = .next v ∧
        v.call = some call := by
  induction h with
  | @stop rem s h =>
    obtain ⟨t, hturn, hturn', -⟩ := turn_withCall_of_stopped (k := ⟨budget, rem⟩) h
    refine ⟨?_, fun j hj => ?_⟩
    · rw [hturn]
      exact core_run_succ Sys2Proof.core 0 _ t ((step_withCall hreset _).trans hturn')
    · obtain rfl : j = 0 := Nat.lt_one_iff.mp hj
      exact ⟨_, _, rfl, rfl⟩
  | @instr rem rem' s t u i rest is hrem hd he _ ih =>
    obtain ⟨-, -, -, -, -, -, -, hreset'⟩ := exec_untouched i s t he
    obtain ⟨hlast, hbefore⟩ := ih (hreset'.trans hreset)
    have hstep := (step_withCall hreset ⟨budget, rem⟩).trans (turn_withCall_instr hrem hd he)
    refine ⟨(core_run_succ Sys2Proof.core _ _ _ hstep).trans hlast, fun j hj => ?_⟩
    cases j with
    | zero => exact ⟨_, _, rfl, rfl⟩
    | succ j =>
      obtain ⟨v, call, hv, hcall⟩ := hbefore j (by simpa using hj)
      exact ⟨v, call, (core_run_succ Sys2Proof.core j _ _ hstep).trans hv, hcall⟩

/-- Settles O35: the steps are the turns of the loop, of which the budget bounds the number. -/
theorem executeIsStepsUntilTheCallReturns : Obligations.ExecuteIsStepsUntilTheCallReturns := by
  intro budget s _ hs hl
  rw [State.beginCall_eq_withCall]
  obtain ⟨is, u, rem', h⟩ := exists_loopRun budget s
  obtain ⟨t, hturn, -, hidle, hresult⟩ :=
    turn_of_stopped (k := ⟨budget, rem'⟩) h.stopped none none
  obtain ⟨hrun, hbefore⟩ := core_run_of_loopRun (budget := budget) h hs.1
  have hlength := h.length_le
  exact ⟨is.length + 1, t, by omega, by omega, (execute_of_loopRun hs hl h).trans hturn,
    hrun.trans hturn, hidle, hresult, hbefore⟩

/-- An Execute with a result Ok ran instructions that used up its counter. -/
theorem execute_ok {budget consumed : Nat} {s t : State} (hs : s.Ready) (hl : s.latch = none)
    (h : execute budget s = .next t) (hresult : t.result = some (.ok consumed)) :
    ∃ is u rem', LoopRun budget s is u rem' ∧ rem' ≤ 0 ∧ consumed = totalCycles is s ∧
      t = { u with result := some (.ok consumed) } := by
  obtain ⟨is, u, rem', hrun, ⟨hrem, he⟩ | ⟨-, -, he⟩⟩ := execute_unlatched budget s hs hl
  · cases he.symm.trans h
    cases hresult
    exact ⟨is, u, rem', hrun, hrem, rfl, rfl⟩
  · cases he.symm.trans h
    cases hresult

/-- Settles O36: the last counter is between -5 and 0. -/
theorem okResultOverrunsByAtMostFive : Obligations.OkResultOverrunsByAtMostFive := by
  intro budget consumed s t hb h hresult
  obtain ⟨hreset, hidle, -⟩ := execute_cases budget s t h
  cases hl : s.latch with
  | some p =>
    cases (execute_latched hb ⟨hreset, hidle⟩ hl).symm.trans h
    cases hresult
  | none =>
    obtain ⟨is, u, rem', hrun, hrem, rfl, -⟩ := execute_ok ⟨hreset, hidle⟩ hl h hresult
    obtain ⟨-, htotal⟩ := hrun.runInstrs
    have hoverrun := hrun.overrun (by omega)
    omega

/-- Settles O37: the instructions are those of the loop. -/
theorem okResultIsTheSumOfTheInstructionsRun :
    Obligations.OkResultIsTheSumOfTheInstructionsRun := by
  intro budget consumed s t hs hl h hresult
  obtain ⟨is, u, rem', hrun, -, hconsumed, ht⟩ := execute_ok hs hl h hresult
  exact ⟨is, u, hrun.runInstrs.1, hconsumed, ht⟩

/-- Settles O38: the instructions are those of the loop, which fetched the opcode with its counter
above 0. -/
theorem errorResultCountsTheInstructionsBeforeIt :
    Obligations.ErrorResultCountsTheInstructionsBeforeIt := by
  intro budget consumed s t op opPc hs hl h hresult
  obtain ⟨is, u, rem', hrun, ⟨-, he⟩ | ⟨hrem, hop, he⟩⟩ := execute_unlatched budget s hs hl
  · cases he.symm.trans h
    cases hresult
  · cases he.symm.trans h
    cases hresult
    obtain ⟨hrunInstrs, htotal⟩ := hrun.runInstrs
    exact ⟨(not_supported_iff _).mpr hop, by omega, by omega, is, u, hrunInstrs, rfl, rfl, rfl, rfl⟩

/-- No Execute reads the result of the one before it. -/
theorem execute_set_result {s : State} (hs : s.Ready) (budget : Nat) (result : Option Result) :
    execute budget { s with result := result } = execute budget s := by
  have hs' : ({ s with result := result } : State).Ready := hs
  obtain hl | ⟨p, hl⟩ := Option.eq_none_or_eq_some s.latch
  · obtain ⟨is, u, rem', h⟩ := exists_loopRun budget s
    obtain ⟨t, hturn, hturn', -⟩ :=
      turn_of_stopped (k := ⟨budget, rem'⟩) h.stopped u.call result
    rw [execute_of_loopRun hs hl h, hturn, ← hturn']
    exact execute_of_loopRun hs' hl (h.set_result result)
  · obtain rfl | hb := Nat.eq_zero_or_pos budget
    · exact (execute_zero hs').trans (execute_zero hs).symm
    · exact (execute_latched hb hs' hl).trans (execute_latched hb hs hl).symm

theorem Call.consumed_add {budget : Nat} {rem : Int} (h : rem ≤ budget) (extra : Nat) :
    Call.consumed ⟨extra + budget, rem⟩ = extra + Call.consumed ⟨budget, rem⟩ := by
  simp only [Call.consumed]
  omega

/-- The cycles of an earlier call only add to the result of a call's last turn. -/
theorem turn_addCycles {budget extra : Nat} {rem : Int} {u t : State} {r : Result}
    (h : rem ≤ 0 ∨ opcodeEntry (u.readByte u.pc) = none) (hrem : rem ≤ budget)
    (ht : turn ⟨budget, rem⟩ u = .next t) (hr : t.result = some r) :
    turn ⟨extra + budget, rem⟩ u = .next { t with result := some (r.addCycles extra) } := by
  by_cases hle : rem ≤ 0
  · rw [turn_return _ u hle] at ht ⊢
    cases ht
    cases hr
    rw [State.returnOk, Call.consumed_add hrem]
    rfl
  · have hop := h.resolve_left hle
    have hconsumed : (Call.consume ⟨extra + budget, rem⟩ 1).consumed = _ :=
      Call.consumed_add (show rem - 1 ≤ budget by omega) extra
    rw [turn_unsupported _ u (by simpa using hle) hop] at ht ⊢
    cases ht
    cases hr
    rw [State.takeUnsupported, hconsumed]
    rfl

theorem Result.addCycles_zero (r : Result) : r.addCycles 0 = r := by
  cases r <;> simp [Result.addCycles]

/-- Settles O40: the two loops are one by `LoopRun.append`, and the last turn of the second is that
of the one call; a first call stopped by the latch has no result Ok but that of budget 0. -/
theorem twoCallsAreOneCallOfTheirTotal : Obligations.TwoCallsAreOneCallOfTheirTotal := by
  intro b1 b2 c1 s t u r hs h1 hr1 h2 hr2
  cases hl : s.latch with
  | some p =>
    obtain rfl | hb := Nat.eq_zero_or_pos b1
    · rw [execute_zero hs, State.endCall_of_idle hs.2] at h1
      cases h1
      cases hr1
      rw [execute_set_result hs] at h2
      rw [zero_add, h2, Result.addCycles_zero, ← hr2]
    · cases (execute_latched hb hs hl).symm.trans h1
      cases hr1
  | none =>
    obtain ⟨is, v, rem', hrun, hrem', rfl, rfl⟩ := execute_ok hs hl h1 hr1
    obtain ⟨hlatch, -, -⟩ := hrun.engine
    obtain ⟨is2, w, rem2, hrun2⟩ := exists_loopRun b2 v
    rw [execute_set_result (hrun.ready hs),
      execute_of_loopRun (hrun.ready hs) (hlatch.trans hl) hrun2] at h2
    obtain ⟨-, htotal⟩ := hrun.runInstrs
    obtain ⟨-, htotal2⟩ := hrun2.runInstrs
    have hcounter : (b1 : Int) - rem' + b2 = (totalCycles is s + b2 : Nat) := by
      push_cast
      omega
    have happend := hrun.append hrem' (Int.natCast_nonneg b2) hrun2
    rw [hcounter] at happend
    rw [execute_of_loopRun hs hl happend]
    exact turn_addCycles hrun2.stopped (by omega) h2 hr2

end Sys2Proof.Machine
end

section
/-!
PROOFS. The statements about one instruction, one step and one Execute (40_fetch_execute.md section
1 to 3, 60_exceptions.md section 1), each read off the loop or its last turn.
-/

namespace Sys2Proof.Machine

/-! One instruction per call -/

/-- R92: a budget the instruction at PC uses up makes the loop that one instruction. -/
theorem execute_one_instr {budget : Nat} {s t : State} {i : Instr} {rest : List Byte}
    (hs : s.Ready) (hl : s.latch = none) (hd : decode s.fetchBytes = .instr i rest)
    (he : exec i s = .next t) (hpos : 1 ≤ budget) (hle : budget ≤ instrCycles s i) :
    execute budget s = .next { t with result := some (.ok (instrCycles s i)) } := by
  have hrem : (budget : Int) - instrCycles s i ≤ 0 := by omega
  have hconsumed :
      Call.consumed ⟨budget, (budget : Int) - instrCycles s i⟩ = instrCycles s i := by
    simp only [Call.consumed]
    omega
  rw [execute_of_loopRun hs hl (.instr (by omega) hd he (.stop (.inl hrem))), turn_return _ t hrem,
    State.returnOk, hconsumed, State.endCall_of_idle (exec_idle he hs.2)]

/-- Settles O39: by `execute_one_instr`. -/
theorem sufficientBudgetRunsExactlyOneInstruction :
    Obligations.SufficientBudgetRunsExactlyOneInstruction := by
  intro s i rest budget hs hl hd hpos hle
  obtain ⟨t, he⟩ := exec_next i s
  exact ⟨t, he, execute_one_instr hs hl hd he hpos hle⟩

/-- Settles O29: by `exec_consumed`. -/
theorem instructionsConsumeTheirTableCycles : Obligations.InstructionsConsumeTheirTableCycles := by
  intro i s k hk
  obtain ⟨t, he⟩ := exec_next i s
  have hconsumed : t.call = s.call.map _ := exec_consumed he
  exact ⟨t, he, by rw [hconsumed, hk, Option.map_some]⟩

/-! Steps -/

/-- Settles O30: a turn in a call, and idle the one instruction of Execute(1). -/
theorem stepRunsTheDecodedInstruction : Obligations.StepRunsTheDecodedInstruction := by
  intro s i rest hd
  refine ⟨fun k hk hrem => ?_, fun hs hl => ?_⟩
  · rw [step_inCall s k hk, turn_instr k s i rest hrem hd]
  · obtain ⟨t, he⟩ := exec_next i s
    have hcycles := instrCycles_bounds s i
    refine ⟨t, he, exec_idle he hs.2, ?_⟩
    rw [step_idle s hs, execute_one_instr hs hl hd he le_rfl (by omega)]

/-- Settles O31: the last turn of a call. -/
theorem exhaustedCallReturnsWhatItConsumed : Obligations.ExhaustedCallReturnsWhatItConsumed := by
  intro s k hk hrem
  rw [step_inCall s k hk, turn_return k s hrem]
  rfl

/-- An Execute at an unsupported opcode has a loop of no instruction (R161). -/
theorem execute_unsupported {budget : Nat} {s : State} (hb : 0 < budget) (hs : s.Ready)
    (hl : s.latch = none) (hop : opcodeEntry (s.readByte s.pc) = none) :
    execute budget s = .next { s with
      pc := add16 s.pc 1
      latch := some (s.readByte s.pc, s.pc)
      result := some (.unsupported (s.readByte s.pc) s.pc 1) } := by
  have hconsumed : (Call.consume ⟨budget, budget⟩ 1).consumed = 1 := by
    simp [Call.consumed, Call.consume]
  rw [execute_of_loopRun hs hl (.stop (.inr hop)), turn_unsupported _ s (by simpa using hb) hop,
    State.takeUnsupported_of_idle hs.2, hconsumed]

/-- Settles O32: the last turn of a call, and idle the Execute of one. -/
theorem unsupportedOpcodeSetsTheLatchAndReturns :
    Obligations.UnsupportedOpcodeSetsTheLatchAndReturns := by
  intro s hbyte
  have hop := (not_supported_iff _).mp hbyte
  refine ⟨fun k hk hrem => ?_, fun hs hl => ?_⟩
  · rw [step_inCall s k hk, turn_unsupported k s hrem hop]
    rfl
  · rw [step_idle s hs, execute_unsupported Nat.one_pos hs hl hop]

theorem resetCommand_idle {s : State} (h : s.call = none) :
    resetCommand s = .next State.reset := by
  simp [resetCommand, h]

/-- Settles O33: the latch stops Execute before its loop, and of the host's commands Reset alone
writes it. -/
theorem latchStopsEveryExecuteUntilReset : Obligations.LatchStopsEveryExecuteUntilReset := by
  intro s op opPc hs hl
  refine ⟨fun budget hb => execute_latched hb hs hl, ?_, ?_, fun w => ?_, State.reset,
    resetCommand_idle hs.2, rfl⟩
  · rw [execute_zero hs, State.endCall_of_idle hs.2]
  · rw [step_idle s hs, execute_latched Nat.one_pos hs hl]
  · obtain ⟨hlatch, -⟩ := w.apply_engine s
    exact ⟨w.apply s, hostWrite_idle w s hs.2, hlatch.trans hl⟩

theorem execute_next (budget : Nat) {s : State} (hs : s.Ready) :
    ∃ t, execute budget s = .next t := by
  obtain rfl | hb := Nat.eq_zero_or_pos budget
  · exact ⟨_, execute_zero hs⟩
  · obtain hl | ⟨p, hl⟩ := Option.eq_none_or_eq_some s.latch
    · obtain ⟨is, u, rem', h⟩ := exists_loopRun budget s
      rw [execute_of_loopRun hs hl h]
      exact turn_next _ u
    · exact ⟨_, execute_latched hb hs hl⟩

/-- A property every turn keeps is kept by a whole Execute, where it holds of the begun call and
whatever result an Execute records that runs none. -/
theorem execute_keeps (P : State → Prop)
    (hturn : ∀ k s t, s.call = some k → turn k s = .next t → P s → P t)
    {budget : Nat} {s t : State} (h : execute budget s = .next t)
    (hbegin : 0 < budget → s.latch = none → s.wasReset = true → P (s.beginCall budget))
    (hzero : P (s.endCall (.ok 0)))
    (hlatched : ∀ op opPc, s.latch = some (op, opPc) → P (s.endCall (.unsupported op opPc 0))) :
    P t := by
  obtain ⟨hreset, -, ⟨-, rfl⟩ | ⟨-, op, opPc, hl, rfl⟩ | ⟨hb, hl, hrun⟩⟩ :=
    execute_cases budget s t h
  · exact hzero
  · exact hlatched op opPc hl
  · exact runCall_rel (fun u v => P u → P v) (fun _ => id) (fun _ _ _ h h' => h' ∘ h) hturn
      (budget + 1) _ t hrun (hbegin hb hl hreset)

theorem turn_wasReset {k : Call} {s t : State} (h : turn k s = .next t) :
    t.wasReset = s.wasReset := by
  obtain ⟨-, i, rest, -, he⟩ | ⟨-, -, rfl⟩ | ⟨-, rfl⟩ := turn_cases k s t h
  · obtain ⟨-, -, -, -, -, -, -, hreset⟩ := exec_untouched i s t he
    exact hreset
  · rfl
  · rfl

theorem execute_wasReset {budget : Nat} {s t : State} (h : execute budget s = .next t) :
    t.wasReset = true := by
  obtain ⟨hreset, -⟩ := execute_cases budget s t h
  exact execute_keeps (fun u => u.wasReset = true)
    (fun _ _ _ _ ht hu => (turn_wasReset ht).trans hu) h (fun _ _ _ => hreset) hreset
    (fun _ _ _ => hreset)

/-- Settles O41: a step is a turn or an Execute, and neither stops. -/
theorem stepNeverStopsAfterReset : Obligations.StepNeverStopsAfterReset := by
  intro s hreset
  obtain hidle | ⟨k, hk⟩ := Option.eq_none_or_eq_some s.call
  · obtain ⟨t, ht⟩ := execute_next 1 ⟨hreset, hidle⟩
    exact ⟨t, (step_idle s ⟨hreset, hidle⟩).trans ht, execute_wasReset ht⟩
  · obtain ⟨t, ht⟩ := turn_next k s
    exact ⟨t, (step_inCall s k ⟨hreset, hk⟩).trans ht, (turn_wasReset ht).trans hreset⟩

end Sys2Proof.Machine
end

section
/-!
PROOFS. The invariant `State.Inv`: that turns, Execute and host writes keep it, and the statements
about it.
-/

namespace Sys2Proof.Machine

theorem State.inv_iff (s : State) :
    s.Inv ↔ s.mem.wf = true ∧ callOk s.call = true ∧ latchOk s.latch = true ∧
      resultOk s.result = true ∧ (s.call = none ∨ s.latch = none) ∧
      (s.call = none ∨ s.wasReset = true) := by
  simp only [State.Inv, State.inv, Bool.and_eq_true, Bool.or_eq_true, Option.isNone_iff_eq_none,
    and_assoc]

theorem callOk_some_iff (k : Call) :
    callOk (some k) = true ↔ 0 < k.budget ∧ -5 ≤ k.remaining ∧ k.remaining ≤ k.budget := by
  simp [callOk, and_assoc]

/-- An instruction started with a cycle left overruns its call by at most 5. -/
theorem callOk_consume {k : Call} (h : callOk (some k) = true) (hrem : 0 < k.remaining)
    {cycles : Nat} (hcycles : cycles ≤ 6) : callOk (some (k.consume cycles)) = true := by
  rw [callOk_some_iff] at h ⊢
  obtain ⟨hbudget, -, hle⟩ := h
  simp only [Call.consume_budget, Call.consume_remaining]
  omega

/-- An idle state meets the invariant by its memory, latch and result alone. -/
theorem State.inv_of_idle {s : State} (hidle : s.call = none) (hmem : s.mem.wf = true)
    (hlatch : latchOk s.latch = true) (hresult : resultOk s.result = true) : s.Inv := by
  rw [State.inv_iff, hidle]
  exact ⟨hmem, rfl, hlatch, hresult, .inl rfl, .inl rfl⟩

theorem State.Inv.endCall {s : State} (h : s.Inv) {r : Result} (hr : resultOk (some r) = true) :
    (s.endCall r).Inv := by
  obtain ⟨hmem, -, hlatch, -⟩ := s.inv_iff.mp h
  exact State.inv_of_idle rfl hmem hlatch hr

theorem exec_inv {k : Call} {i : Instr} {s t : State} (hk : s.call = some k)
    (hrem : 0 < k.remaining) (he : exec i s = .next t) (h : s.Inv) : t.Inv := by
  obtain ⟨hmem, hcall, hlatch, hresult, hlatched, hreset⟩ := s.inv_iff.mp h
  obtain ⟨-, -, -, -, -, hlatch', hresult', hreset'⟩ := exec_untouched i s t he
  obtain ⟨-, hcycles⟩ := instrCycles_bounds s i
  have hconsumed : t.call = s.call.map _ := exec_consumed he
  rw [hk] at hcall hlatched hreset hconsumed
  rw [State.inv_iff, hlatch', hresult', hreset', hconsumed]
  exact ⟨exec_wf i s t he hmem, callOk_consume hcall hrem hcycles, hlatch, hresult,
    .inr (hlatched.resolve_left nofun), .inr (hreset.resolve_left nofun)⟩

theorem turn_inv {k : Call} {s t : State} (hk : s.call = some k) (h : turn k s = .next t)
    (hs : s.Inv) : t.Inv := by
  obtain ⟨hrem, i, rest, -, he⟩ | ⟨-, hop, rfl⟩ | ⟨-, rfl⟩ := turn_cases k s t h
  · exact exec_inv hk hrem he hs
  · obtain ⟨hmem, -⟩ := s.inv_iff.mp hs
    have hnone : (opcodeEntry (s.readByte s.pc)).isNone = true := Option.isNone_iff_eq_none.mpr hop
    exact State.inv_of_idle rfl hmem hnone hnone
  · exact hs.endCall rfl

theorem State.Inv.beginCall {s : State} (h : s.Inv) {budget : Nat} (hb : 0 < budget)
    (hl : s.latch = none) (hreset : s.wasReset = true) : (s.beginCall budget).Inv := by
  obtain ⟨hmem, -, hlatch, hresult, -⟩ := s.inv_iff.mp h
  refine (s.beginCall budget).inv_iff.mpr ⟨hmem, (callOk_some_iff _).mpr ?_, hlatch, hresult,
    .inr hl, .inr hreset⟩
  exact ⟨hb, by simp only; omega, le_rfl⟩

theorem execute_inv {budget : Nat} {s t : State} (h : execute budget s = .next t) (hs : s.Inv) :
    t.Inv := by
  refine execute_keeps State.Inv (fun _ _ _ => turn_inv) h (fun hb => hs.beginCall hb)
    (hs.endCall rfl) (fun op opPc hl => hs.endCall ?_)
  obtain ⟨-, -, hlatch, -⟩ := s.inv_iff.mp hs
  rwa [hl] at hlatch

/-- Settles O42: memory is empty, and there is no call, latch or result. -/
theorem resetMeetsTheInvariant : Obligations.ResetMeetsTheInvariant :=
  State.inv_of_idle rfl State.reset_mem_wf rfl rfl

/-- A step is a turn of the call in progress or the Execute of an idle state. -/
theorem step_cases {s t : State} (h : step s = .next t) :
    (∃ k, s.call = some k ∧ turn k s = .next t) ∨ execute 1 s = .next t := by
  unfold step engineStep at h
  split at h
  · cases h
  · cases hcall : s.call with
    | none =>
      rw [hcall] at h
      exact .inr h
    | some k =>
      rw [hcall] at h
      exact .inl ⟨k, rfl, h⟩

/-- Settles O43: turns and Execute keep it. -/
theorem stepKeepsTheInvariant : Obligations.StepKeepsTheInvariant := by
  intro s t hs h
  obtain ⟨k, hk, ht⟩ | he := step_cases h
  · exact turn_inv hk ht hs
  · exact execute_inv he hs

theorem HostWrite.apply_wf (w : HostWrite) {s : State} (h : s.mem.wf = true) :
    (w.apply s).mem.wf = true := by
  cases w with
  | byte addr val => exact s.wf_writeByte addr val h
  | reg r val | pc val | sp val | flag f bit => exact h

theorem hostWrite_inv {w : HostWrite} {s t : State} (h : hostWrite w s = .next t) (hs : s.Inv) :
    t.Inv := by
  unfold hostWrite at h
  split at h
  · cases h
  · cases h
    obtain ⟨hmem, hrest⟩ := s.inv_iff.mp hs
    obtain ⟨hlatch, hcall, hresult, hreset⟩ := w.apply_engine s
    rw [State.inv_iff, hlatch, hcall, hresult, hreset]
    exact ⟨w.apply_wf hmem, hrest⟩

/-- Settles O44: Reset establishes it, Execute and a host write keep it. -/
theorem commandsKeepTheInvariant : Obligations.CommandsKeepTheInvariant := by
  intro cmd s t hs h
  cases cmd with
  | reset =>
    rw [resetCommand_next h]
    exact resetMeetsTheInvariant
  | execute budget => exact execute_inv h hs
  | write w => exact hostWrite_inv h hs

end Sys2Proof.Machine
end

section
/-!
PROOFS. Reset (70_reset_and_hazards.md) and the host's access (R35 of 10_state.md), and the
statements about them.
-/

namespace Sys2Proof.Machine

/-! Reset -/

/-- Settles O45: Reset leaves `State.reset`. -/
theorem resetLeavesTheTableValues : Obligations.ResetLeavesTheTableValues := by
  intro s hidle
  exact ⟨State.reset, resetCommand_idle hidle, rfl, rfl, rfl, rfl, rfl,
    fun f => by cases f <;> rfl, State.reset_readByte, rfl, rfl, rfl⟩

/-- Settles O46: the byte at 0xFFFC reads 0x00, which has no row in the opcode table. -/
theorem emptyMemoryAfterResetIsUnsupported : Obligations.EmptyMemoryAfterResetIsUnsupported := by
  intro budget hb
  exact ⟨_, execute_unsupported (s := State.reset) hb ⟨rfl, rfl⟩ rfl rfl, rfl, rfl, rfl,
    State.reset_readByte⟩

/-! What the host is refused -/

theorem hostRead_barred {α : Type} (item : State → α) {s : State} {r : Refusal}
    (h : hostReadBar s = some r) : hostRead item s = .error r := by
  simp [hostRead, h]

/-- Settles O47: every one of them tests the issued Reset first. -/
theorem beforeTheFirstResetIsRefused : Obligations.BeforeTheFirstResetIsRefused := by
  intro s hreset
  have hbar : hostReadBar s = some .beforeFirstReset := by simp [hostReadBar, hreset]
  refine ⟨by simp [step, engineStep, hreset], fun budget => by simp [execute, hreset], ?_⟩
  exact ⟨fun _ => hostRead_barred _ hbar, hostRead_barred _ hbar, hostRead_barred _ hbar,
    fun _ => hostRead_barred _ hbar, fun _ => hostRead_barred _ hbar⟩

theorem command_inCall (cmd : Command) {s : State} {k : Call} (h : s.InCall k) :
    command cmd s = .refused .callInProgress := by
  obtain ⟨hreset, hcall⟩ := h
  cases cmd with
  | reset => simp [command, resetCommand, hcall]
  | execute budget => simp [command, Machine.execute, hreset, hcall]
  | write w => simp [command, hostWrite, hcall]

/-- Settles O48: every one of them tests the call in progress. -/
theorem commandsDuringACallAreRefused : Obligations.CommandsDuringACallAreRefused := by
  intro s k h
  have hbar : hostReadBar s = some .callInProgress := by simp [hostReadBar, h.1, h.2]
  exact ⟨fun cmd => command_inCall cmd h, fun _ => hostRead_barred _ hbar, hostRead_barred _ hbar,
    hostRead_barred _ hbar, fun _ => hostRead_barred _ hbar, fun _ => hostRead_barred _ hbar⟩

/-! What the idle host reads and writes -/

theorem hostSees_ready {s : State} (h : s.Ready) :
    HostSees s s.reg s.pc s.sp s.flag s.readByte :=
  ⟨fun _ => hostRead_ready _ s h, hostRead_ready _ s h, hostRead_ready _ s h,
    fun _ => hostRead_ready _ s h, fun _ => hostRead_ready _ s h⟩

/-- After any host write the host reads the fields of `HostWrite.apply`. -/
theorem hostWriteLeaves_apply {s : State} (h : s.Ready) (w : HostWrite) :
    HostWriteLeaves s w (w.apply s).reg (w.apply s).pc (w.apply s).sp (w.apply s).flag
      (w.apply s).readByte := by
  obtain ⟨hlatch, hcall, hresult, hreset⟩ := w.apply_engine s
  have hready : (w.apply s).Ready := ⟨hreset.trans h.1, hcall.trans h.2⟩
  exact ⟨w.apply s, hostWrite_idle w s h.2, hready, hlatch, hresult, hostSees_ready hready⟩

theorem State.reg_setReg_eq_update (s : State) (r : Reg) (val : Byte) :
    (s.setReg r val).reg = Function.update s.reg r val := by
  funext q
  rw [State.reg_setReg, Function.update_apply]

theorem State.flag_setFlag_eq_update (s : State) (f : Flag) (bit : Bool) :
    (s.setFlag f bit).flag = Function.update s.flag f bit := by
  funext g
  rw [State.flag_setFlag, Function.update_apply]

theorem State.readByte_writeByte_eq_update (s : State) (addr : Word) (val : Byte)
    (hm : s.mem.wf = true) :
    (s.writeByte addr val).readByte = Function.update s.readByte addr val := by
  funext a
  rw [State.readByte_writeByte s addr a val hm, Function.update_apply]

/-- Settles O49: the idle host reads the state's fields, and each host write updates one of them. -/
theorem hostWritesChangeExactlyTheirItem : Obligations.HostWritesChangeExactlyTheirItem := by
  intro s h
  obtain ⟨hregs, -, -, hflags, hbytes⟩ := hostSees_ready h
  refine ⟨hostSees_ready h, ⟨hregs .a, hregs .x, hregs .y⟩,
    ⟨hflags .c, hflags .z, hflags .i, hflags .d, hflags .b, hflags .v, hflags .n⟩, hbytes,
    fun r val => ?_, fun val => hostWriteLeaves_apply h (.pc val),
    fun val => hostWriteLeaves_apply h (.sp val), fun f bit => ?_, fun hm addr val => ?_⟩
  · rw [← State.reg_setReg_eq_update]
    exact hostWriteLeaves_apply h (.reg r val)
  · rw [← State.flag_setFlag_eq_update]
    exact hostWriteLeaves_apply h (.flag f bit)
  · rw [← State.readByte_writeByte_eq_update s addr val hm]
    exact hostWriteLeaves_apply h (.byte addr val)

end Sys2Proof.Machine
end
